-- ==== Sys2Proof/Word.lean ====
section
/-! DEFINITION. The word types of the block's interfaces (spec/00_scope.md R5, R7). -/

namespace Sys2Proof

/-- A word of the CMD, RSP or RCREQ channel: `CMD_W`, `RSP_W`, `RCREQ_W` (R5, R34). -/
abbrev Word64 := BitVec 64

/-- A working register of `WREG_W` bits (R5, R12), and the operand `VALUE`. -/
abbrev Word32 := BitVec 32

/-- A word of the RCRSP channel, and the width of `DECAY`, `low`, `high`, `total` (R5, R43). -/
abbrev Word16 := BitVec 16

/-- An 8-bit field of a command or response word (R35, R41), and one byte of a serialised word (R31). -/
abbrev Byte := BitVec 8

end Sys2Proof
end

