-- ==== Sys2Proof/Config.lean ====
section
/-! DEFINITION. The parameters of the block (spec/00_scope.md R5, spec/10_state.md R14), and the values the model names where
the spec gives none. The block has no uninterpreted parameter: the one free input, the RCRSP word, is data of the state. -/

namespace Sys2Proof

/-- The order in which the bytes of a 64-bit word travel over a byte-wide transport (R31). -/
inductive ByteOrder where
  /-- Bits 7:0 first. -/
  | little
  /-- Bits 63:56 first. -/
  | big
  deriving DecidableEq, Repr

/-- `FT`, the total range (R5, R14). -/
def Config.ft : Int := 32767

/-- `QBITS`, the fraction bits of the fixed-point decay (R5, R14). -/
def Config.qbits : Nat := 14

/-- `ONE`, the fixed-point value of 1.0 (R5, R14). -/
def Config.one : Int := 16384

/-- `DECAY_LIM`: a decay is valid when it is below this (R5, R55). -/
def Config.decayLim : Nat := 16384

/-- `K_MAX`, the largest number of rings of non-zero width (R5, R54). -/
def Config.kMax : Nat := 136

/-- How often a ring walk may go round before the model gives up on it. DEDUCED (log 16): a walk of a valid decay takes at most
`fs_0 <= 32767` rounds (R54 item 2, R105), so the bound is never met. -/
def Config.walkBound : Nat := 32767

/-- `WORD_BYTE_ORDER`, an open parameter with this default (R5, R31). -/
def Config.wordByteOrder : ByteOrder := .little

/-- What a 32-bit working register holds after reset. DESIGN CHOICE (log 3): unspecified by R21, which forbids assuming zero. -/
def Config.unspecified32 : Word32 := 0xA5A5A5A5#32

/-- What `DECAY` holds after reset. DESIGN CHOICE (log 3), as `unspecified32`. -/
def Config.unspecified16 : Word16 := 0xA5A5#16

/-- What the flag `S` holds after reset. DESIGN CHOICE (log 3), as `unspecified32`. -/
def Config.unspecifiedFlag : Bool := true

end Sys2Proof
end

