-- ==== Sys2Proof/Syntax.lean ====
section
/-! DEFINITION. The command set (spec/30_encoding.md R36, R44; spec/opcode_table.json). Operands are the integers of R37 and R44;
their ranges are checked by `Instr.WellFormed`. -/

namespace Sys2Proof

/-- The three commands of R36, in the notation of R44. -/
inductive Instr where
  /-- `STARTFREQ decay` (R56). -/
  | startfreq (decay : Nat)
  /-- `LAPENC value, decay` (R58). -/
  | lapenc (value : Int) (decay : Nat)
  /-- `LAPDEC decay` (R67). -/
  | lapdec (decay : Nat)
  deriving DecidableEq, Repr

end Sys2Proof
end

