-- ==== Sys2Proof/WellFormed.lean ====
section
/-! DEFINITION. When a command can be written as a command word: its operands fit their fields (spec/30_encoding.md R37, R44). A
decay of 16384 or more fits its field and is no ill-formed command (R40); that it is outside the caller's contract is `DecayValid`. -/

namespace Sys2Proof

/-- `decay` is an unsigned integer from 0 to 65535 (R44). -/
def DecayFits (decay : Nat) : Bool := decay < 65536

/-- `value` is a signed integer from -2147483648 to 2147483647 (R44). -/
def ValueFits (value : Int) : Bool := -2147483648 ≤ value && value ≤ 2147483647

/-- Every operand fits its field (R37, R44). -/
def Instr.WellFormed (i : Instr) : Bool :=
  match i with
  | .startfreq decay => DecayFits decay
  | .lapenc value decay => ValueFits value && DecayFits decay
  | .lapdec decay => DecayFits decay

/-- The decay is one the source gives a meaning to: `DECAY_MIN <= decay < DECAY_LIM` (R5, R55). -/
def DecayValid (decay : Nat) : Bool := decay < Config.decayLim

/-- The decay operand of a command. -/
def Instr.decay (i : Instr) : Nat :=
  match i with
  | .startfreq decay => decay
  | .lapenc _ decay => decay
  | .lapdec decay => decay

end Sys2Proof
end

