-- ==== Sys2Proof/Decode.lean ====
section
/-! DEFINITION. The command word (spec/30_encoding.md R35 to R40): decoder, table of masks, encoder, and the carriage of a word over a
byte-wide transport (spec/20_memory.md R31). -/

namespace Sys2Proof

/-! ## The fields of R35 -/

/-- `OP`, bits 63:56. -/
def opField (w : Word64) : Byte := w.extractLsb' 56 8

/-- `RSV`, bits 55:48. -/
def rsvField (w : Word64) : Byte := w.extractLsb' 48 8

/-- `DECAY`, bits 47:32. -/
def decayField (w : Word64) : Word16 := w.extractLsb' 32 16

/-- `VALUE`, bits 31:0. -/
def valueField (w : Word64) : Word32 := w.extractLsb' 0 32

/-! ## The decoder -/

/-- Why a word, or a serialised command, is no command. -/
inductive Illegal where
  /-- `RSV` is not zero (R39). -/
  | reservedFieldSet (rsv : Byte)
  /-- `OP` is `0x00` or `0x04` to `0xFF` (R36, R39). -/
  | reservedOpcode (op : Byte)
  /-- A serialised command that is not eight bytes long (R34: every command is one 64-bit word). -/
  | wrongLength (bytes : Nat)
  deriving DecidableEq, Repr

/-- R38: total on 64-bit words; `RSV` and `OP` are looked at before any operand (R89), and the operands are those of R37. -/
def decode (w : Word64) : Except Illegal Instr :=
  if rsvField w ≠ 0#8 then .error (.reservedFieldSet (rsvField w))
  else if opField w = 0x01#8 then .ok (.startfreq (decayField w).toNat)
  else if opField w = 0x02#8 then .ok (.lapenc (valueField w).toInt (decayField w).toNat)
  else if opField w = 0x03#8 then .ok (.lapdec (decayField w).toNat)
  else .error (.reservedOpcode (opField w))

/-! ## The table of R36 -/

/-- One row of the opcode map: the words `w` with `w AND mask = value` are its commands. -/
structure OpcodeRow where
  mnemonic : String
  mask : Word64
  value : Word64
  deriving DecidableEq, Repr

/-- `w` selects the row `r` (R36). -/
def selectsRow (w : Word64) (r : OpcodeRow) : Bool := w &&& r.mask == r.value

/-- The opcode map as masks and values (R36, spec/opcode_table.json). -/
def opcodeTable : List OpcodeRow :=
  [ ⟨"STARTFREQ", 0xFFFF000000000000#64, 0x0100000000000000#64⟩,
    ⟨"LAPENC", 0xFFFF000000000000#64, 0x0200000000000000#64⟩,
    ⟨"LAPDEC", 0xFFFF000000000000#64, 0x0300000000000000#64⟩ ]

/-- A command's mnemonic (R36). -/
def Instr.mnemonic (i : Instr) : String :=
  match i with
  | .startfreq _ => "STARTFREQ"
  | .lapenc _ _ => "LAPENC"
  | .lapdec _ => "LAPDEC"

/-! ## The encoder -/

/-- The `OP` value of a command (R36). -/
def Instr.opcode (i : Instr) : Byte :=
  match i with
  | .startfreq _ => 0x01#8
  | .lapenc _ _ => 0x02#8
  | .lapdec _ => 0x03#8

/-- The four fields of R35 laid into one word: OP from bit 56 on, RSV from 48, DECAY from 32, VALUE from 0. -/
def commandWord (op rsv : Byte) (decay : Word16) (value : Word32) : Word64 :=
  BitVec.ofNat 64 (op.toNat * 2 ^ 56 + rsv.toNat * 2 ^ 48 + decay.toNat * 2 ^ 32 + value.toNat)

/-- The word of a command, as the assembler of R44 writes it: `RSV` zero, and `VALUE` zero where the command has no value operand. -/
def encode (i : Instr) : Word64 :=
  match i with
  | .startfreq decay => commandWord i.opcode 0#8 (BitVec.ofNat 16 decay) 0#32
  | .lapenc value decay => commandWord i.opcode 0#8 (BitVec.ofNat 16 decay) (BitVec.ofInt 32 value)
  | .lapdec decay => commandWord i.opcode 0#8 (BitVec.ofNat 16 decay) 0#32

/-! ## A word over a byte-wide transport (R31) -/

/-- The bytes of a word, the first to travel first. -/
def bytesOfWord (order : ByteOrder) (w : Word64) : List Byte :=
  let low := [w.extractLsb' 0 8, w.extractLsb' 8 8, w.extractLsb' 16 8, w.extractLsb' 24 8,
    w.extractLsb' 32 8, w.extractLsb' 40 8, w.extractLsb' 48 8, w.extractLsb' 56 8]
  match order with
  | .little => low
  | .big => low.reverse

/-- The word whose low bits are the first byte of the list. -/
def wordOfLittle (bytes : List Byte) : Word64 :=
  match bytes with
  | [] => 0#64
  | b :: rest => BitVec.ofNat 64 (b.toNat + 2 ^ 8 * (wordOfLittle rest).toNat)

/-- The word that eight bytes carry, or none for another number of bytes (R28: a word is transferred whole). -/
def wordOfBytes (order : ByteOrder) (bytes : List Byte) : Option Word64 :=
  if bytes.length = 8 then
    match order with
    | .little => some (wordOfLittle bytes)
    | .big => some (wordOfLittle bytes.reverse)
  else none

/-- Decoding of a serialised command: total on any bytes. -/
def decodeBytes (order : ByteOrder) (bytes : List Byte) : Except Illegal Instr :=
  match wordOfBytes order bytes with
  | some w => decode w
  | none => .error (.wrongLength bytes.length)

/-! ## The host's numbering of a table word -/

/-- The command word whose low `nbits` bits are those of `w`, the rest zero. -/
def tableWord (nbits w : Nat) : Word64 := BitVec.ofNat 64 (w % 2 ^ nbits)

/-- What the decoder reads from a word numbered as spec/opcode_table.json numbers it. -/
def decodeTableWord (nbits w : Nat) : Option Instr :=
  match decode (tableWord nbits w) with
  | .ok i => some i
  | .error _ => none

end Sys2Proof
end

