-- ==== Sys2Proof/Machine/State.lean ====
section
/-! DEFINITION. The state of the block (spec/10_state.md R11, R12, R21), of its four channels (spec/20_memory.md R23) and of the two
agents around it (spec/00_scope.md R6). INVENTORY.md lists every field with its rule. -/

namespace Sys2Proof.Machine

/-- `MODE` (R11). -/
inductive Mode where
  /-- No command is in progress. -/
  | idle
  /-- A command is executing. -/
  | run
  /-- A LAPDEC waits for the answer to its DEC_FREQ request (R68). -/
  | waitFm
  deriving DecidableEq, Repr

/-- The working registers (R12), with the widths of R12. FS, FL, FH, FM, VAL, TL, TS and VALUE are two's complement; DECAY, MAG
and I are unsigned; S is the one flag (R13). -/
@[ext]
structure Regs where
  decay : Word16
  value : Word32
  s : Bool
  mag : Word32
  i : Word32
  fs : Word32
  fl : Word32
  fh : Word32
  fm : Word32
  val : Word32
  tl : Word32
  ts : Word32
  deriving DecidableEq, Repr

/-- A request on RCREQ: one call of a range-coder primitive (R24, R25, R26, R42). -/
inductive Request where
  /-- KIND 1, `RcEncode` (R24). -/
  | encInterval (low high total : Word16)
  /-- KIND 2, `RcDecodeFreq` (R25). -/
  | decFreq (total : Word16)
  /-- KIND 3, `RcDecodeUpdate` (R26). -/
  | decUpdate (low high total : Word16)
  deriving DecidableEq, Repr

/-- The STATUS field of a response (R41, R88). -/
inductive Status where
  | done
  | illegalCmd
  deriving DecidableEq, Repr

/-- A response on RSP (R41). -/
structure Response where
  status : Status
  result : Word32
  deriving DecidableEq, Repr

/-- Whether the range coder goes on. Environment, not block (R6, U2). -/
inductive RangeCoder where
  /-- Every interval it was given since it was last set up kept its precondition (R24, R26). -/
  | inContract
  /-- It has stopped, with the cause of U2: "precondition of encode_interval violated" (R95, second row). It takes no request and gives
  no answer any more (log 9). -/
  | encodeIntervalPreconditionViolated
  deriving DecidableEq, Repr

/-- What can arrive from outside between two moves of the block (log 2). -/
inductive Input where
  /-- Nothing arrives: the block moves. -/
  | blockMoves
  /-- RST is applied (R96). -/
  | rst
  /-- The host offers one more word on CMD, after those it already offers (R23). -/
  | command (w : Word64)
  /-- The range coder settles the answer to one more DEC_FREQ request (R25, U3). -/
  | answer (fm : Word16)
  /-- The range coder becomes ready, or not, to take a request (R23, R106). -/
  | rcreqReady (ready : Bool)
  /-- The host becomes ready, or not, to take responses as they come (R23, R106). -/
  | rspReady (ready : Bool)
  /-- The host takes one response, the oldest, if there is one (R23). -/
  | takeResponse
  /-- The host sets the range coder up anew (R96, R98): a range coder that has stopped goes on (log 9). -/
  | rangeCoderRestarted
  deriving DecidableEq, Repr

/-- One thing another agent can see (R9, R29): a word transferred on a channel, or a reset. -/
inductive Event where
  | cmdTaken (w : Word64)
  | rcreqTaken (w : Word64)
  | rcrspTaken (w : Word16)
  | rspTaken (w : Word64)
  | reset
  deriving DecidableEq, Repr

/-- The whole machine: the block, its channels, and what the host and the range coder are going to do. -/
@[ext]
structure State where
  /-- MODE (R11). -/
  mode : Mode
  /-- The command word taken and not yet answered (R11 (c)). -/
  held : Option Word64
  /-- The working registers (R12). -/
  regs : Regs
  /-- CMD: the words the host offers, oldest first (R23). -/
  cmd : List Word64
  /-- RCREQ: the one request the block offers and that has not been taken yet (R23, R29, R96). -/
  request : Option Request
  /-- RSP: the responses the block has emitted and the host has not taken yet, oldest first (R23, R107; log 6). -/
  rsp : List Response
  /-- RCRSP: the answers the range coder gives, one for each DEC_FREQ request, oldest first (R18, R23, R25). -/
  oracle : List Word16
  /-- The range coder takes a request that is offered to it. -/
  rcreqReady : Bool
  /-- The host takes every response as it is emitted. -/
  rspReady : Bool
  /-- Whether the range coder goes on, or has stopped with the cause of U2. -/
  rangeCoder : RangeCoder
  /-- What arrives from outside before each of the next steps; where it is empty the block moves (log 2). -/
  inputs : List Input
  /-- Every word transferred so far and every reset, oldest first (R18, R29, R107). -/
  trace : List Event
  deriving DecidableEq, Repr

/-- Why the machine stops with a fault: never. The block raises no exception, trap, fault or error (R86), and there is no address
that does not exist (R22), so this type has no constructor (log 19). -/
inductive Fault where
  deriving DecidableEq, Repr

/-- Why the model gives a command no meaning. -/
inductive Refusal where
  /-- A row of the opcode table that has no meaning yet; no arm of `exec` raises it. Safe. -/
  | notModelled (mnemonic : String)
  /-- A legal command whose decay is 16384 or more: R55 leaves everything it does unspecified and U1 has the model refuse it
  (log 5). Raised by the meanings of all three commands. Safe: nothing is claimed of such a command. -/
  | decayOutOfContract
  deriving DecidableEq, Repr

/-- The working registers after reset: unspecified by R21; the values are the model's own (DESIGN CHOICE, log 3). -/
def Regs.reset : Regs where
  decay := Config.unspecified16
  value := Config.unspecified32
  s := Config.unspecifiedFlag
  mag := Config.unspecified32
  i := Config.unspecified32
  fs := Config.unspecified32
  fl := Config.unspecified32
  fh := Config.unspecified32
  fm := Config.unspecified32
  val := Config.unspecified32
  tl := Config.unspecified32
  ts := Config.unspecified32

/-- The machine right after reset (R21, R97): idle, nothing held, the channels empty. -/
def State.reset : State where
  mode := .idle
  held := none
  regs := Regs.reset
  cmd := []
  request := none
  rsp := []
  oracle := []
  rcreqReady := true
  rspReady := true
  rangeCoder := .inContract
  inputs := []
  trace := []

end Sys2Proof.Machine
end

