-- ==== Sys2Proof/Machine/Channels.lean ====
section
/-! DEFINITION. The words of the response and range-coder channels (spec/30_encoding.md R41, R42, R43): their layout, and how an agent
reads them back. -/

namespace Sys2Proof.Machine

/-! ## The response word (R41) -/

/-- The STATUS field's value (R41, R88). -/
def statusCode (s : Status) : Byte :=
  match s with
  | .done => 0x00#8
  | .illegalCmd => 0x01#8

/-- Format RSP: STATUS from bit 32 on, RESULT from 0, the rest zero (R41). -/
def responseWord (r : Response) : Word64 := BitVec.ofNat 64 ((statusCode r.status).toNat * 2 ^ 32 + r.result.toNat)

/-- How the host reads a response word; no other word is ever emitted (R41, U9). -/
def readResponse (w : Word64) : Option Response :=
  if w.extractLsb' 40 24 ≠ 0#24 then none
  else if w.extractLsb' 32 8 = statusCode .done then some ⟨.done, w.extractLsb' 0 32⟩
  else if w.extractLsb' 32 8 = statusCode .illegalCmd then some ⟨.illegalCmd, w.extractLsb' 0 32⟩
  else none

/-! ## The range-coder request word (R42) -/

/-- The four fields of R42 laid into one word: KIND from bit 48 on, LOW from 32, HIGH from 16, TOTAL from 0, the rest zero. -/
def rcreqWord (kind : BitVec 2) (low high total : Word16) : Word64 :=
  BitVec.ofNat 64 (kind.toNat * 2 ^ 48 + low.toNat * 2 ^ 32 + high.toNat * 2 ^ 16 + total.toNat)

/-- Format RCREQ; LOW and HIGH are 0 for DEC_FREQ (R42, D28). -/
def requestWord (r : Request) : Word64 :=
  match r with
  | .encInterval low high total => rcreqWord 1#2 low high total
  | .decFreq total => rcreqWord 2#2 0#16 0#16 total
  | .decUpdate low high total => rcreqWord 3#2 low high total

/-- How the range coder reads a request word; KIND 0 is never emitted (R42, U9). -/
def readRequest (w : Word64) : Option Request :=
  let low := w.extractLsb' 32 16
  let high := w.extractLsb' 16 16
  let total := w.extractLsb' 0 16
  if w.extractLsb' 50 14 ≠ 0#14 then none
  else if w.extractLsb' 48 2 = 1#2 then some (.encInterval low high total)
  else if w.extractLsb' 48 2 = 2#2 then if low = 0#16 ∧ high = 0#16 then some (.decFreq total) else none
  else if w.extractLsb' 48 2 = 3#2 then some (.decUpdate low high total)
  else none

/-! ## The range coder's side of the contract -/

/-- The precondition of a primitive: `0 <= low < high <= total` for the two committing ones (R24, R26); the query has none
(R25). -/
def preconditionHolds (r : Request) : Bool :=
  match r with
  | .encInterval low high total => low.toNat < high.toNat && high.toNat ≤ total.toNat
  | .decFreq _ => true
  | .decUpdate low high total => low.toNat < high.toNat && high.toNat ≤ total.toNat

/-- The range coder after it has taken a request: it stops on one that breaks the precondition (U2, R95; log 9). -/
def rangeCoderAfter (rc : RangeCoder) (r : Request) : RangeCoder :=
  if preconditionHolds r then rc else .encodeIntervalPreconditionViolated

end Sys2Proof.Machine
end

