-- ==== Sys2Proof/Machine/Operands.lean ====
section
/-! DEFINITION. Numbers and bits (spec/00_scope.md R7), reading and writing the working registers (R8, spec/10_state.md R12), and the
loading of a command's operands into them (spec/30_encoding.md R37). Values are mathematical integers; a write narrows to the
register's width. -/

namespace Sys2Proof.Machine

/-! ## The conversions of R7 -/

/-- `twos_32(v)`. -/
def twos32 (v : Int) : Word32 := BitVec.ofInt 32 v

/-- `sint_32(w)`. -/
def sint32 (w : Word32) : Int := w.toInt

/-- The unsigned value of a 16-bit field. -/
def uint16 (w : Word16) : Int := (w.toNat : Int)

/-- The 16-bit word of an unsigned quantity (R42). -/
def word16 (v : Int) : Word16 := BitVec.ofInt 16 v

/-- `asr(v, n)`: `floor(v / 2^n)` (R7, R48). -/
def asr (v : Int) (n : Nat) : Int := v >>> n

/-! ## `NAME <- v` (R8): the signed registers -/

/-- `VALUE <- v`. -/
def Regs.setValue (r : Regs) (v : Int) : Regs := { r with value := twos32 v }

/-- `FS <- v`. -/
def Regs.setFs (r : Regs) (v : Int) : Regs := { r with fs := twos32 v }

/-- `FL <- v`. -/
def Regs.setFl (r : Regs) (v : Int) : Regs := { r with fl := twos32 v }

/-- `FH <- v`. -/
def Regs.setFh (r : Regs) (v : Int) : Regs := { r with fh := twos32 v }

/-- `FM <- v`. -/
def Regs.setFm (r : Regs) (v : Int) : Regs := { r with fm := twos32 v }

/-- `VAL <- v`. -/
def Regs.setVal (r : Regs) (v : Int) : Regs := { r with val := twos32 v }

/-- `TL <- v`. -/
def Regs.setTl (r : Regs) (v : Int) : Regs := { r with tl := twos32 v }

/-- `TS <- v`. -/
def Regs.setTs (r : Regs) (v : Int) : Regs := { r with ts := twos32 v }

/-! ## `NAME <- v` (R8): the unsigned registers and the flag -/

/-- `DECAY <- d`. -/
def Regs.setDecay (r : Regs) (d : Nat) : Regs := { r with decay := BitVec.ofNat 16 d }

/-- `MAG <- n`. MAG is unsigned, so that it holds `2^31` (R59, D9). -/
def Regs.setMag (r : Regs) (n : Nat) : Regs := { r with mag := BitVec.ofNat 32 n }

/-- `I <- n`. -/
def Regs.setI (r : Regs) (n : Nat) : Regs := { r with i := BitVec.ofNat 32 n }

/-- `S <- b`. -/
def Regs.setS (r : Regs) (b : Bool) : Regs := { r with s := b }

/-! ## The current value of a register in an expression (R8) -/

/-- `VALUE` in an expression. -/
def Regs.getValue (r : Regs) : Int := sint32 r.value

/-- `FS` in an expression. -/
def Regs.getFs (r : Regs) : Int := sint32 r.fs

/-- `FL` in an expression. -/
def Regs.getFl (r : Regs) : Int := sint32 r.fl

/-- `FH` in an expression. -/
def Regs.getFh (r : Regs) : Int := sint32 r.fh

/-- `FM` in an expression. -/
def Regs.getFm (r : Regs) : Int := sint32 r.fm

/-- `VAL` in an expression. -/
def Regs.getVal (r : Regs) : Int := sint32 r.val

/-- `TL` in an expression. -/
def Regs.getTl (r : Regs) : Int := sint32 r.tl

/-- `TS` in an expression. -/
def Regs.getTs (r : Regs) : Int := sint32 r.ts

/-- `DECAY` in an expression. -/
def Regs.getDecay (r : Regs) : Int := uint16 r.decay

/-- `MAG` in an expression. -/
def Regs.getMag (r : Regs) : Nat := r.mag.toNat

/-- `I` in an expression. -/
def Regs.getI (r : Regs) : Nat := r.i.toNat

/-! ## Operands -/

/-- `DECAY <- w[47:32]`, the operand already taken out of the word (R37). -/
def loadDecay (decay : Nat) (r : Regs) : Regs := r.setDecay decay

/-- `VALUE <- sint_32(w[31:0])`, the operand already taken out of the word (R37). -/
def loadValue (value : Int) (r : Regs) : Regs := r.setValue value

/-- A command with a valid decay goes on to the state it is given; any other has no meaning (R55, R95, U1; log 5). -/
def withValidDecay (decay : Nat) (t : State) : Host.Outcome State Fault Refusal :=
  if DecayValid decay then .next t else .refused .decayOutOfContract

end Sys2Proof.Machine
end

