-- ==== Sys2Proof/Machine/Rings.lean ====
section
/-! DEFINITION. What the encoder and the decoder share (spec/40_start_freq_and_ring_model.md): the start frequency, the shrink step,
and the rings they lay out. The meanings use `startFreq` and `shrink` only; the ring table is the vocabulary in which the
rules, and so the statements about the commands, speak. -/

namespace Sys2Proof.Machine

/-- `start_freq(decay)` (R49). The divisor is positive for a valid decay, where Lean's integer division is the floor (R47). -/
def startFreq (decay : Int) : Int := Config.ft * (Config.one - decay) / (Config.one + decay)

/-- `shrink(fs, decay)`: the full product, then the arithmetic right shift (R48, R50). -/
def shrink (fs decay : Int) : Int := asr (fs * decay) Config.qbits

/-- `fs_k` (R51): iterated, not a single floor (R84). -/
def ringWidth (decay : Int) (k : Nat) : Int :=
  match k with
  | 0 => startFreq decay
  | k + 1 => shrink (ringWidth decay k) decay

/-- `base_k` (R52). -/
def ringBase (decay : Int) (k : Nat) : Int :=
  match k with
  | 0 => 0
  | 1 => ringWidth decay 0
  | k + 2 => ringBase decay (k + 1) + 2 * ringWidth decay (k + 1)

/-- How many widths, from `fs` on, come before the first that is zero, looking at no more than `bound`. -/
def positiveWidths (bound : Nat) (fs decay : Int) : Nat :=
  match bound with
  | 0 => 0
  | n + 1 => if fs = 0 then 0 else positiveWidths n (shrink fs decay) decay + 1

/-- `K(decay)`, the number of rings of non-zero width (R51). The bound is never met for a valid decay (log 16). -/
def ringCount (decay : Int) : Nat := positiveWidths Config.walkBound (startFreq decay) decay

/-- `S(decay)`, the total mass the rings occupy (R52). -/
def ringMass (decay : Int) : Int := ringBase decay (ringCount decay)

end Sys2Proof.Machine
end

