-- ==== Sys2Proof/Machine/DecoderWalk.lean ====
section
/-! DEFINITION. What LAPDEC does to the working registers once the range coder has answered (spec/42_decoder.md R67 to R72), one
definition for each step of its pseudocode. -/

namespace Sys2Proof.Machine

/-- `FM <- zext_32(answer)`, and step 1 (R68, R69). -/
def decStart (fm : Word16) (r : Regs) : Regs :=
  let r := r.setFm (uint16 fm)
  let r := r.setVal 0
  let r := r.setFl 0
  let r := r.setFs (startFreq r.getDecay)
  r.setFh r.getFs

/-- One iteration of the walk; FH grows by twice the shrunk FS (R70). -/
def decAdvance (r : Regs) : Regs :=
  let r := r.setFl r.getFh
  let r := r.setFs (shrink r.getFs r.getDecay)
  let r := r.setFh (r.getFh + 2 * r.getFs)
  r.setVal (r.getVal + 1)

/-- Step 2, the walk: both conditions are tested before every iteration (R70). -/
def decWalk (bound : Nat) (r : Regs) : Regs :=
  match bound with
  | 0 => r
  | n + 1 => if r.getFh ≤ r.getFm ∧ r.getFs ≠ 0 then decWalk n (decAdvance r) else r

/-- Step 3, the sign: ring 0 is not split (R71). -/
def decSign (r : Regs) : Regs :=
  if 0 < r.getFl then
    if r.getFl + r.getFs ≤ r.getFm then (r.setVal (-r.getVal)).setFl (r.getFl + r.getFs)
    else r.setFh (r.getFh - r.getFs)
  else r

/-- Step 4, the guard (R72). -/
def decGuard (r : Regs) : Regs :=
  if r.getFl = r.getFh then r.setFl (r.getFl - 1) else r

/-- The registers after step 2. -/
def decWalked (fm : Word16) (r : Regs) : Regs := decWalk Config.walkBound (decStart fm r)

/-- The registers of LAPDEC as they stand after step 4 (R67); DECAY is already loaded. -/
def decRegs (fm : Word16) (r : Regs) : Regs := decGuard (decSign (decWalked fm r))

end Sys2Proof.Machine
end

