-- ==== Sys2Proof/Machine/Ops.lean ====
section
/-! DEFINITION. The operations over the state that the commands share: the primitives of spec/00_scope.md R8 (`RcEncode`, `RcDecodeFreq`,
`RcDecodeUpdate`, `Respond`), the transfers on the four channels (spec/20_memory.md R23, R29), the answer to an illegal word
(spec/30_encoding.md R39) and reset (spec/70_reset_and_hazards.md R96). The block takes no exception and returns from none
(spec/60_exceptions.md R86, R90); the answer to an illegal word stands where that operation would. -/

namespace Sys2Proof.Machine

/-! ## Plain updates of the state -/

/-- The working registers become `f` of themselves. -/
def State.mapRegs (s : State) (f : Regs → Regs) : State := { s with regs := f s.regs }

/-- The block offers the request `r` on RCREQ; it executes a command. -/
def State.offering (s : State) (r : Request) : State := { s with request := some r, mode := .run }

/-- A word has been transferred, or a reset has happened. -/
def State.record (s : State) (e : Event) : State := { s with trace := s.trace ++ [e] }

/-! ## The primitives of R8 -/

/-- `RcEncode(low, high, total)` (R24): the request is offered on RCREQ. -/
def rcEncode (low high total : Int) (s : State) : State :=
  s.offering (.encInterval (word16 low) (word16 high) (word16 total))

/-- `RcDecodeFreq(total)` (R25), up to the offer of the request. -/
def rcDecodeFreq (total : Int) (s : State) : State :=
  s.offering (.decFreq (word16 total))

/-- `RcDecodeUpdate(low, high, total)` (R26): the request is offered on RCREQ. -/
def rcDecodeUpdate (low high total : Int) (s : State) : State :=
  s.offering (.decUpdate (word16 low) (word16 high) (word16 total))

/-- `Respond(status, result)` (R8, R41): the response is emitted on RSP and MODE returns to IDLE, the command answered (R11 (c)); the
block does not wait for the host (R91; log 6). -/
def respond (status : Status) (result : Word32) (s : State) : State :=
  { s with mode := .idle, held := none, request := none, rsp := s.rsp ++ [⟨status, result⟩] }

/-- The answer to a word that is no command: `Respond(ILLEGAL_CMD, 0)`, no request, no working register touched (R39, R88). -/
def rejectWord (s : State) : State := respond .illegalCmd 0#32 s

/-! ## Transfers -/

/-- The block takes the word `w` from CMD (R11, R29). -/
def takeCommand (w : Word64) (s : State) : State :=
  { s with mode := .run, held := some w }.record (.cmdTaken w)

/-- What LAPDEC does once its query is answered: steps 1 to 4, then the update is offered (R67). -/
def resumeLapdec (fm : Word16) (s : State) : State :=
  let s := s.mapRegs (decRegs fm)
  rcDecodeUpdate s.regs.getFl s.regs.getFh Config.ft s

/-- The range coder takes the request `r`, and the command goes on: LAPENC answers (R64), the query is waited for (R68), LAPDEC
answers (R73). -/
def requestTaken (r : Request) (s : State) : State :=
  let s := { s with request := none, rangeCoder := rangeCoderAfter s.rangeCoder r }.record (.rcreqTaken (requestWord r))
  match r with
  | .encInterval _ _ _ => respond .done 0#32 s
  | .decFreq _ => { s with mode := .waitFm }
  | .decUpdate _ _ _ => respond .done s.regs.val s

/-- The block takes the answer `fm` from RCRSP (R68). -/
def answerTaken (fm : Word16) (rest : List Word16) (s : State) : State :=
  resumeLapdec fm ({ s with oracle := rest, mode := .run }.record (.rcrspTaken fm))

/-- The next transfer of the command in progress with a range coder that has not stopped, and what the block does up to the one after
it; where the range coder does not move, nothing happens (R91, R106; log 13). -/
def transfer (s : State) : State :=
  match s.request with
  | some r => if s.rcreqReady then requestTaken r s else s
  | none =>
    match s.mode with
    | .waitFm =>
      match s.oracle with
      | fm :: rest => answerTaken fm rest s
      | [] => s
    | _ => s

/-- The next transfer of the command in progress; with a range coder that has stopped there is none (U2, R95; log 9). -/
def advance (s : State) : State :=
  match s.rangeCoder with
  | .inContract => transfer s
  | .encodeIntervalPreconditionViolated => s

/-- The host takes every response on RSP, oldest first, if it is ready to (R23). -/
def hostTakes (s : State) : State :=
  if s.rspReady then { s with rsp := [], trace := s.trace ++ s.rsp.map fun r => .rspTaken (responseWord r) } else s

/-- The host takes the oldest response on RSP, if there is one (R23). -/
def takeOldest (s : State) : State :=
  match s.rsp with
  | r :: rest => { s with rsp := rest }.record (.rspTaken (responseWord r))
  | [] => s

/-- The command in progress goes on until it is answered or the range coder does not move (log 1), and a ready host takes the answer.
No command has more than three transfers with the range coder: DEC_FREQ, its answer, DEC_UPDATE (R67). -/
def settle (s : State) : State := hostTakes (advance (advance (advance s)))

/-! ## Reset -/

/-- RST is applied (R21, R96): idle, the command in progress abandoned without a response, the words offered and not taken withdrawn
and all four channels empty; what has been taken stays taken, and the range coder is not touched. -/
def applyReset (s : State) : State :=
  { s with
    mode := .idle
    held := none
    regs := Regs.reset
    cmd := []
    request := none
    rsp := []
    oracle := [] }.record .reset

end Sys2Proof.Machine
end

