-- ==== Sys2Proof/Machine/Decoder.lean ====
section
/-! DEFINITION. The command LAPDEC (spec/42_decoder.md R67). What it does with the answer to its query is `resumeLapdec`. -/

namespace Sys2Proof.Machine

/-- `LAPDEC decay`: query the range coder, walk to the ring of its answer, update the range coder, answer the value (R67). -/
def execLapdec (decay : Nat) (s : State) : Host.Outcome State Fault Refusal :=
  withValidDecay decay (settle (rcDecodeFreq Config.ft (s.mapRegs (loadDecay decay))))

end Sys2Proof.Machine
end

