-- ==== Sys2Proof/Machine/Flags.lean ====
section
/-! DEFINITION. The one flag of the block, the encoder's sign flag (spec/10_state.md R13, spec/41_encoder.md R59, R63). No command writes
a flag as a side effect, and there are no condition codes. -/

namespace Sys2Proof.Machine

/-- `1 if VALUE < 0 else 0` (R13): the value 0 is not negative. -/
def signOf (value : Int) : Bool := value < 0

/-- Step 1 of LAPENC: `S` and `MAG` from `VALUE`; `MAG` is the mathematical absolute value (R59). -/
def extractSign (r : Regs) : Regs :=
  (r.setS (signOf r.getValue)).setMag r.getValue.natAbs

/-- Step 5 of LAPENC: a negative value takes the upper half of its ring (R63, C1). -/
def shiftBySign (r : Regs) : Regs :=
  if r.s then r.setFl (r.getFl + r.getFs) else r

end Sys2Proof.Machine
end

