-- ==== Sys2Proof/Machine/EncoderWalk.lean ====
section
/-! DEFINITION. What LAPENC does to the working registers (spec/41_encoder.md R58 to R63), one definition for each step of its
pseudocode. -/

namespace Sys2Proof.Machine

/-- Steps 1 and 2: operands, sign and magnitude, start of the walk (R58, R59, R60). -/
def encStart (value : Int) (decay : Nat) (r : Regs) : Regs :=
  let r := extractSign (loadValue value (loadDecay decay r))
  let r := r.setFs (startFreq r.getDecay)
  let r := r.setFl (-r.getFs)
  r.setI 0

/-- The body of the walk up to the test of FS: save, advance, shrink, in this order (R61 reading (a)). -/
def encAdvance (r : Regs) : Regs :=
  let r := r.setTl r.getFl
  let r := r.setTs r.getFs
  let r := r.setFl (r.getFl + 2 * r.getFs)
  r.setFs (shrink r.getFs r.getDecay)

/-- The roll-back: both registers get back the values they had when the step began (R61 reading (c)). -/
def encRollBack (r : Regs) : Regs :=
  (r.setFl r.getTl).setFs r.getTs

/-- Step 3, the walk (R61): the zero test is made in every step, the last one included (reading (b)). -/
def encWalk (bound : Nat) (r : Regs) : Regs :=
  match bound with
  | 0 => r
  | n + 1 =>
    if r.getI < r.getMag then
      if (encAdvance r).getFs = 0 then encRollBack (encAdvance r)
      else encWalk n ((encAdvance r).setI (r.getI + 1))
    else r

/-- How many steps the walk executes, a step that is rolled back counted (R61, R105). -/
def encWalkSteps (bound : Nat) (r : Regs) : Nat :=
  match bound with
  | 0 => 0
  | n + 1 =>
    if r.getI < r.getMag then
      if (encAdvance r).getFs = 0 then 1
      else encWalkSteps n ((encAdvance r).setI (r.getI + 1)) + 1
    else 0

/-- Step 4, the clamp (R62). -/
def encClamp (r : Regs) : Regs :=
  if r.getFl < 0 then r.setFl 0 else r

/-- The registers of LAPENC as they stand after step 5 (R58). -/
def encRegs (value : Int) (decay : Nat) (r : Regs) : Regs :=
  shiftBySign (encClamp (encWalk Config.walkBound (encStart value decay r)))

end Sys2Proof.Machine
end

