-- ==== Sys2Proof/Machine/Encoder.lean ====
section
/-! DEFINITION. The command LAPENC (spec/41_encoder.md R58). -/

namespace Sys2Proof.Machine

/-- `LAPENC value, decay`: walk to the ring of the value, hand its half to the range coder, answer 0 (R58, R64). -/
def execLapenc (value : Int) (decay : Nat) (s : State) : Host.Outcome State Fault Refusal :=
  let s := s.mapRegs (encRegs value decay)
  withValidDecay decay (settle (rcEncode s.regs.getFl (s.regs.getFl + s.regs.getFs) Config.ft s))

end Sys2Proof.Machine
end

