-- ==== Sys2Proof/Machine/StartFreq.lean ====
section
/-! DEFINITION. The command STARTFREQ (spec/40_start_freq_and_ring_model.md R56). -/

namespace Sys2Proof.Machine

/-- The registers of STARTFREQ: `DECAY`, then `FS <- start_freq(DECAY)` (R56). -/
def startfreqRegs (decay : Nat) (r : Regs) : Regs :=
  let r := loadDecay decay r
  r.setFs (startFreq r.getDecay)

/-- `STARTFREQ decay`: compute the start frequency and return it (R56). -/
def execStartfreq (decay : Nat) (s : State) : Host.Outcome State Fault Refusal :=
  let s := s.mapRegs (startfreqRegs decay)
  withValidDecay decay (settle (respond .done s.regs.fs s))

end Sys2Proof.Machine
end

