-- ==== Sys2Proof/Machine/Dispatch.lean ====
section
/-! DEFINITION. One arm for each command of the opcode table (spec/30_encoding.md R36). -/

namespace Sys2Proof.Machine

def exec (i : Instr) (s : State) : Host.Outcome State Fault Refusal :=
  match i with
  | .startfreq decay => Sys2Proof.Machine.execStartfreq decay s
  | .lapenc value decay => Sys2Proof.Machine.execLapenc value decay s
  | .lapdec decay => Sys2Proof.Machine.execLapdec decay s

end Sys2Proof.Machine
end

