-- ==== Sys2Proof/Machine/Fetch.lean ====
section
/-! DEFINITION. What a step of the machine is made of: the block's moves (spec/20_memory.md R29, spec/30_encoding.md R38) and what arrives
from outside (spec/00_scope.md R6, spec/70_reset_and_hazards.md R96). -/

namespace Sys2Proof.Machine

/-- The block takes the word `w` and executes it (R38): the command it decodes to, or the answer to an illegal word (R39). -/
def runWord (w : Word64) (s : State) : Host.Outcome State Fault Refusal :=
  match decode w with
  | .ok i => exec i (takeCommand w s)
  | .error _ => .next (settle (rejectWord (takeCommand w s)))

/-- The block moves: the command in progress goes on, or, in IDLE, the next word of CMD is taken (R15, R29); with nothing to take
the block does nothing (R97). -/
def blockMove (s : State) : Host.Outcome State Fault Refusal :=
  match s.mode with
  | .idle =>
    match s.cmd with
    | w :: rest => runWord w { s with cmd := rest }
    | [] => .next (hostTakes s)
  | _ => .next (settle s)

/-- One scheduled event (log 2): either the block moves, or another agent does something it can do between two moves. -/
def applyInput (e : Input) (s : State) : Host.Outcome State Fault Refusal :=
  match e with
  | .blockMoves => blockMove s
  | .rst => .next (applyReset s)
  | .command w => .next { s with cmd := s.cmd ++ [w] }
  | .answer fm => .next { s with oracle := s.oracle ++ [fm] }
  | .rcreqReady ready => .next { s with rcreqReady := ready }
  | .rspReady ready => .next (hostTakes { s with rspReady := ready })
  | .takeResponse => .next (takeOldest s)
  | .rangeCoderRestarted => .next { s with rangeCoder := .inContract }

/-- The next scheduled event, or, with nothing scheduled, a move of the block. -/
def nextMove (s : State) : Host.Outcome State Fault Refusal :=
  match s.inputs with
  | [] => blockMove s
  | e :: rest => applyInput e { s with inputs := rest }

/-- `s` with the word `w` first on CMD, the block idle and nothing scheduled before its move: the next step takes `w`. -/
def offeringFirst (w : Word64) (s : State) : State :=
  { s with mode := .idle, held := none, request := none, inputs := [], cmd := w :: s.cmd }

end Sys2Proof.Machine
end

