-- ==== Sys2Proof/Machine/Step.lean ====
section
/-! DEFINITION. The step of the machine, and how the host places the next command (log 12). -/

namespace Sys2Proof.Machine

/-- One step: the next scheduled event from outside, or a move of the block (R9, R29; log 1, log 2). -/
def step (s : State) : Host.Outcome State Fault Refusal := nextMove s

/-- `s` with the command word of the table's numbering first on CMD, so that the next step runs it. -/
def State.withFetchWord (s : State) (nbits w : Nat) : State := offeringFirst (tableWord nbits w) s

end Sys2Proof.Machine
end

