-- ==== Sys2Proof/Safety.lean ====
section
/-! DEFINITION. The terms in which claims about the machine are made: what a finished command leaves, when a run is over
(spec/70_reset_and_hazards.md R107), the protocol of the four channels (spec/20_memory.md R29) and the invariant of every step. -/

namespace Sys2Proof.Machine

/-! ## Conditions on the agents, and finished commands -/

/-- A host that takes every response as it is emitted has none left to take. -/
def HostPrompt (s : State) : Prop := s.rspReady = true → s.rsp = []

/-- The range coder has been given no interval that breaks its precondition since it was last set up, so it has not stopped (R24, R26,
U2). -/
def ContractKept (s : State) : Prop := s.rangeCoder = .inContract

/-- The range coder takes every request as it is offered (R106). -/
def TakesRequests (s : State) : Prop := s.rcreqReady = true ∧ ContractKept s

/-- Both agents take what is offered to them, and the host has taken all so far: the readiness part of R106. -/
def Willing (s : State) : Prop := TakesRequests s ∧ s.rspReady = true ∧ s.rsp = []

/-- `s` after a command that is over: idle, nothing held or offered, the registers `r`, and `events` transferred, in this
order. -/
def finished (s : State) (r : Regs) (events : List Event) : State :=
  { s with mode := .idle, held := none, request := none, regs := r, trace := s.trace ++ events }

/-- The command words the host is still going to offer, in the order of the schedule (log 2, log 12). -/
def wordsToCome (inputs : List Input) : List Word64 :=
  inputs.filterMap fun e =>
    match e with
    | .command w => some w
    | _ => none

/-- The run is over (R107): idle, every command word of the sequence taken, those of the schedule too, and every response taken. R107
does not say how the words and responses that an RST withdrew count; here they are no longer waited for (DESIGN CHOICE, log 21). -/
def RunOver (s : State) : Prop := s.mode = .idle ∧ s.cmd = [] ∧ wordsToCome s.inputs = [] ∧ s.rsp = []

/-! ## The protocol of the channels (R29, R38, R39, R41, R42, R96) -/

/-- How far the transfers of the command in progress have come. -/
inductive Phase where
  | idle
  /-- The word has been taken, and nothing has been emitted. -/
  | commanded (w : Word64)
  /-- A LAPDEC's query has been taken. -/
  | queried (w : Word64)
  /-- A LAPDEC's query has been answered. -/
  | answered (w : Word64)
  deriving DecidableEq, Repr

/-- Where a trace has come to: the command in progress, and the commands that are over and whose response the host has not taken,
oldest first. -/
structure Progress where
  phase : Phase
  owed : List Word64
  deriving DecidableEq, Repr

/-- A request the command word `w` may make first: a LAPENC one ENC_INTERVAL with `low < high`, a LAPDEC one DEC_FREQ, both with
`total` 32767 (R24, R25, R58, R66 item 5, R67). -/
def firstRequestFits (w : Word64) (r : Request) : Bool :=
  match decode w, r with
  | .ok (.lapenc _ _), .encInterval low high total => low.toNat < high.toNat && total == 0x7FFF#16
  | .ok (.lapdec _), .decFreq total => total == 0x7FFF#16
  | _, _ => false

/-- The one request a LAPDEC makes after its answer: a DEC_UPDATE that keeps the range coder's precondition (R26, R67, R76). -/
def updateFits (r : Request) : Bool :=
  match r with
  | .decUpdate low high total => low.toNat < high.toNat && high.toNat ≤ 32767 && total == 0x7FFF#16
  | _ => false

/-- A response that may answer the command word `w` (R39, R41): by R38 an illegal word is answered, and only it, with ILLEGAL_CMD
and result 0. -/
def responseFits (w : Word64) (r : Response) : Bool :=
  match decode w with
  | .ok (.startfreq decay) => r == ⟨.done, twos32 (startFreq decay)⟩
  | .ok (.lapenc _ _) => r == ⟨.done, 0#32⟩
  | .ok (.lapdec _) => r.status == .done
  | .error _ => r == ⟨.illegalCmd, 0#32⟩

/-- Response by response, `rsp` may answer the words `owed`, and there is one for each (R23, R41). -/
def responsesFit (owed : List Word64) (rsp : List Response) : Bool :=
  match owed, rsp with
  | [], [] => true
  | w :: ws, r :: rs => responseFits w r && responsesFit ws rs
  | _, _ => false

/-- A word that is answered without a request: STARTFREQ (R56) and every illegal word (R39). -/
def answersAtOnce (w : Word64) : Bool :=
  match decode w with
  | .ok (.startfreq _) => true
  | .error _ => true
  | _ => false

/-- The command word `w` is over: its response is emitted, and the host is still to take it (R29 (c)). -/
def Progress.over (p : Progress) (w : Word64) : Progress := ⟨.idle, p.owed ++ [w]⟩

/-- After a command word has been taken: only in IDLE (R29 (a)). -/
def progressAfterCommand (p : Progress) (w : Word64) : Option Progress :=
  if p.phase = .idle then
    if answersAtOnce w then some (p.over w) else some { p with phase := .commanded w }
  else none

/-- After a request has been taken, where the protocol allows it (R29 (b)). -/
def progressAfterRequest (p : Progress) (r : Request) : Option Progress :=
  match p.phase, r with
  | .commanded w, .decFreq _ => if firstRequestFits w r then some { p with phase := .queried w } else none
  | .commanded w, _ => if firstRequestFits w r then some (p.over w) else none
  | .answered w, _ => if updateFits r then some (p.over w) else none
  | _, _ => none

/-- After an answer has been taken: only while a query waits for it (R68). -/
def progressAfterAnswer (p : Progress) : Option Progress :=
  match p.phase with
  | .queried w => some { p with phase := .answered w }
  | _ => none

/-- After a response has been taken: the oldest that is owed (R23). -/
def progressAfterResponse (p : Progress) (r : Response) : Option Progress :=
  match p.owed with
  | w :: rest => if responseFits w r then some { p with owed := rest } else none
  | [] => none

/-- After one event, where the protocol allows the event; a word that is no request or response word is never allowed (R41, R42,
U9). A reset leaves nothing in progress and nothing owed (R96). -/
def progressAfter (p : Progress) (e : Event) : Option Progress :=
  match e with
  | .reset => some ⟨.idle, []⟩
  | .cmdTaken w => progressAfterCommand p w
  | .rcreqTaken word => (readRequest word).bind (progressAfterRequest p)
  | .rcrspTaken _ => progressAfterAnswer p
  | .rspTaken word => (readResponse word).bind (progressAfterResponse p)

/-- After a whole trace, where the protocol allows the trace. -/
def progressOfTrace (trace : List Event) : Option Progress :=
  trace.foldl (fun p e => p.bind (progressAfter · e)) (some ⟨.idle, []⟩)

/-! ## The invariant -/

/-- The held word is a LAPDEC of a valid decay, and DECAY holds it. -/
def HoldsLapdec (w : Word64) (r : Regs) : Prop :=
  ∃ decay : Nat, decode w = .ok (.lapdec decay) ∧ DecayValid decay = true ∧ r.decay = BitVec.ofNat 16 decay

/-- What the block offers on RCREQ while it executes the command word `w` with the registers `r`, in the phase `p`: a request the
protocol allows next. A LAPDEC keeps its decay as long as it has a request to make. -/
def RequestFits (w : Word64) (r : Regs) (p : Phase) (q : Request) : Prop :=
  match q with
  | .encInterval low high total => p = .commanded w ∧ firstRequestFits w (.encInterval low high total) = true
  | .decFreq total => p = .commanded w ∧ firstRequestFits w (.decFreq total) = true ∧ HoldsLapdec w r
  | .decUpdate low high total => p = .answered w ∧ updateFits (.decUpdate low high total) = true ∧ HoldsLapdec w r

/-- What MODE says of the rest of the block, in the phase `p` (R11, R29, R68). -/
def ModeFits (s : State) (p : Phase) : Prop :=
  match s.mode with
  | .idle => p = .idle ∧ s.held = none ∧ s.request = none
  | .waitFm => ∃ w, s.held = some w ∧ p = .queried w ∧ s.request = none ∧ HoldsLapdec w s.regs
  | .run => ∃ w q, s.held = some w ∧ s.request = some q ∧ RequestFits w s.regs p q

/-- The invariant of every step: the words transferred so far follow the protocol, MODE, the held word and the offered request are
those of the phase the trace has come to, RSP holds a fitting response for every command that is over and whose response the host
has not taken, in order, and none where the host takes them as they come. -/
def Inv (s : State) : Prop :=
  HostPrompt s ∧
    ∃ p, progressOfTrace s.trace = some p ∧ ModeFits s p.phase ∧ responsesFit p.owed s.rsp = true

end Sys2Proof.Machine
end

