-- ==== Sys2Proof/Certificates/Slice0/Obligations.lean ====
section
/-! DEFINITION. The statements about the model. A decay `d` is valid when `d < 16384` (spec/40_start_freq_and_ring_model.md R55);
`ringWidth`, `ringBase`, `ringCount`, `ringMass` are `fs_k`, `base_k`, `K`, `S` of R51 and R52. `finished s r es` is `s` with the command
over, the registers `r` and the events `es` appended: everything else of `s` is unchanged. -/

open Sys2Proof Sys2Proof.Machine

/-! ## Encoding -/

/-- Decoding the word of a well-formed command gives the command back (R35, R36, R37, R44). -/
def Obligations.DecodeOfEncode : Prop :=
  ∀ i : Instr, i.WellFormed = true → decode (encode i) = .ok i

/-- A word that decodes is the word of its command, but for the VALUE field of STARTFREQ and LAPDEC, which the assembler writes as
zero (R37, R40, R44); and the command is well-formed. -/
def Obligations.EncodeOfDecode : Prop :=
  ∀ (w : Word64) (i : Instr), decode w = .ok i →
    i.WellFormed = true ∧
      encode i = (match i with
        | .startfreq _ => (w >>> 32) <<< 32
        | .lapenc _ _ => w
        | .lapdec _ => (w >>> 32) <<< 32)

/-- The opcode map (R36) with its operands (R37): which words are which command, and that all the others are no command. -/
def Obligations.OpcodeMap : Prop :=
  ∀ w : Word64,
    let decay := w.toNat / 2 ^ 32 % 2 ^ 16
    let value : Int := if w.toNat % 2 ^ 32 < 2 ^ 31 then ((w.toNat % 2 ^ 32 : Nat) : Int) else ((w.toNat % 2 ^ 32 : Nat) : Int) - 2 ^ 32
    (w &&& 0xFFFF000000000000#64 = 0x0100000000000000#64 → decode w = .ok (.startfreq decay)) ∧
    (w &&& 0xFFFF000000000000#64 = 0x0200000000000000#64 → decode w = .ok (.lapenc value decay)) ∧
    (w &&& 0xFFFF000000000000#64 = 0x0300000000000000#64 → decode w = .ok (.lapdec decay)) ∧
    (w &&& 0xFFFF000000000000#64 ≠ 0x0100000000000000#64 → w &&& 0xFFFF000000000000#64 ≠ 0x0200000000000000#64 →
      w &&& 0xFFFF000000000000#64 ≠ 0x0300000000000000#64 → ∃ e, decode w = .error e)

/-- Decoding is total (R38): a word is refused exactly when RSV is not zero or OP is not 1, 2 or 3 (R39). -/
def Obligations.DecodeRejectsReserved : Prop :=
  ∀ w : Word64, (∃ e, decode w = .error e) ↔
    (w.toNat / 2 ^ 48 % 2 ^ 8 ≠ 0 ∨ (w.toNat / 2 ^ 56 ≠ 1 ∧ w.toNat / 2 ^ 56 ≠ 2 ∧ w.toNat / 2 ^ 56 ≠ 3))

/-- STARTFREQ and LAPDEC ignore the VALUE field, LAPENC uses all fields, and a DECAY field of 16384 or more is no illegal encoding
(R40). -/
def Obligations.ValueFieldIgnoredOrUsed : Prop :=
  (∀ w w' : Word64, w.toNat / 2 ^ 32 = w'.toNat / 2 ^ 32 → (w.toNat / 2 ^ 56 = 1 ∨ w.toNat / 2 ^ 56 = 3) → decode w = decode w') ∧
  (∀ (w w' : Word64) (v : Int) (d : Nat), decode w = .ok (.lapenc v d) → decode w' = .ok (.lapenc v d) → w = w') ∧
  (∀ w : Word64, (w.toNat / 2 ^ 48 = 0x0100 ∨ w.toNat / 2 ^ 48 = 0x0200 ∨ w.toNat / 2 ^ 48 = 0x0300) → ∃ i, decode w = .ok i)

/-- The worked encodings of R45, one by one. -/
def Obligations.WorkedEncodings : Prop :=
  encode (.startfreq 8192) = 0x0100200000000000#64 ∧ decode 0x0100200000000000#64 = .ok (.startfreq 8192) ∧
  encode (.lapenc 0 8192) = 0x0200200000000000#64 ∧ decode 0x0200200000000000#64 = .ok (.lapenc 0 8192) ∧
  encode (.lapenc (-3) 8192) = 0x02002000FFFFFFFD#64 ∧ decode 0x02002000FFFFFFFD#64 = .ok (.lapenc (-3) 8192) ∧
  encode (.lapenc 1 16000) = 0x02003E8000000001#64 ∧ decode 0x02003E8000000001#64 = .ok (.lapenc 1 16000) ∧
  encode (.lapdec 8192) = 0x0300200000000000#64 ∧ decode 0x0300200000000000#64 = .ok (.lapdec 8192) ∧
  responseWord ⟨.done, 10922#32⟩ = 0x0000000000002AAA#64 ∧
  responseWord ⟨.done, twos32 (-1)⟩ = 0x00000000FFFFFFFF#64 ∧
  responseWord ⟨.illegalCmd, 0#32⟩ = 0x0000000100000000#64 ∧
  requestWord (.encInterval 16383#16 21844#16 32767#16) = 0x00013FFF55547FFF#64 ∧
  requestWord (.decFreq 32767#16) = 0x0002000000007FFF#64 ∧
  requestWord (.decUpdate 16383#16 21844#16 32767#16) = 0x00033FFF55547FFF#64 ∧
  (∀ w ∈ [0x0000000000000000#64, 0x0201200000000000#64],
    runWord w State.reset = .next (finished State.reset State.reset.regs [.cmdTaken w, .rspTaken 0x0000000100000000#64]))

/-- The fields of a response word stand where R41 puts them, the rest is zero, and the host reads back what was sent. -/
def Obligations.ResponseWordLayout : Prop :=
  ∀ (status : Status) (result : Word32),
    (responseWord ⟨status, result⟩).toNat = (match status with | .done => 0 | .illegalCmd => 1) * 2 ^ 32 + result.toNat ∧
    readResponse (responseWord ⟨status, result⟩) = some ⟨status, result⟩

/-- The fields of a request word stand where R42 puts them, the rest is zero, and the range coder reads back what was sent. -/
def Obligations.RequestWordLayout : Prop :=
  ∀ low high total : Word16,
    (requestWord (.encInterval low high total)).toNat = 1 * 2 ^ 48 + low.toNat * 2 ^ 32 + high.toNat * 2 ^ 16 + total.toNat ∧
    (requestWord (.decFreq total)).toNat = 2 * 2 ^ 48 + total.toNat ∧
    (requestWord (.decUpdate low high total)).toNat = 3 * 2 ^ 48 + low.toNat * 2 ^ 32 + high.toNat * 2 ^ 16 + total.toNat ∧
    readRequest (requestWord (.encInterval low high total)) = some (.encInterval low high total) ∧
    readRequest (requestWord (.decFreq total)) = some (.decFreq total) ∧
    readRequest (requestWord (.decUpdate low high total)) = some (.decUpdate low high total)

/-- A word carried over a byte-wide transport arrives as it was, in either order; the default order sends bits 7:0 first; and bytes
that are not eight are no command (R31, R34). -/
def Obligations.SerialisedWordArrives : Prop :=
  (∀ (order : ByteOrder) (w : Word64), wordOfBytes order (bytesOfWord order w) = some w) ∧
  (∀ w : Word64, ((bytesOfWord Config.wordByteOrder w).map BitVec.toNat) =
    (List.range 8).map (fun k => w.toNat / 2 ^ (8 * k) % 256)) ∧
  (∀ (order : ByteOrder) (bytes : List Byte), bytes.length ≠ 8 → ∃ e, decodeBytes order bytes = .error e)

/-! ## Arithmetic and the rings -/

/-- The one division (R47): the largest integer whose product with the divisor is at most the dividend, whichever way a division
rounds, with the largest dividend. -/
def Obligations.StartFreqIsFloor : Prop :=
  ∀ d : Nat, d < 16384 →
    let a : Int := 32767 * (16384 - d)
    let b : Int := 16384 + d
    0 ≤ a ∧ 0 < b ∧ a ≤ 536854528 ∧ (d = 0 → a = 536854528) ∧
    startFreq d * b ≤ a ∧ (∀ q : Int, q * b ≤ a → q ≤ startFreq d) ∧
    Int.tdiv a b = startFreq d ∧ Int.fdiv a b = startFreq d

/-- The selected values of R49, and the two ends of the valid domain: the start frequency is 32767 only at 0 and 1 only at 16383,
always between the two, and never rises with the decay (R54 item 1). -/
def Obligations.StartFreqRange : Prop :=
  (∀ d : Nat, d < 16384 → 1 ≤ startFreq d ∧ startFreq d ≤ 32767 ∧
    (startFreq d = 32767 ↔ d = 0) ∧ (startFreq d = 1 ↔ d = 16383)) ∧
  (∀ d e : Nat, d ≤ e → e < 16384 → startFreq e ≤ startFreq d) ∧
  [0, 1, 2, 100, 4096, 8192, 12000, 15000, 16000, 16202, 16382, 16383].map startFreq =
    [32767, 32763, 32759, 32369, 19660, 10922, 5060, 1444, 388, 183, 2, 1]

/-- The shrink step and its properties (R50), with the four roundings that agree (R48). -/
def Obligations.ShrinkLowersWidth : Prop :=
  ∀ fs d : Int, 0 ≤ fs → 0 ≤ d → d < 16384 →
    shrink fs d = Int.fdiv (fs * d) 16384 ∧ shrink fs d = Int.tdiv (fs * d) 16384 ∧
    shrink fs d = (((fs * d).toNat >>> 14 : Nat) : Int) ∧
    shrink 0 d = 0 ∧ shrink fs 0 = 0 ∧ 0 ≤ shrink fs d ∧ (1 ≤ fs → shrink fs d ≤ fs - 1)

/-- The ring widths fall strictly to zero and stay there; `K` is the least index of width zero, between 1 and `fs_0` (R51, R54
item 2, R79). -/
def Obligations.RingWidthsFallToZero : Prop :=
  ∀ d : Nat, d < 16384 →
    1 ≤ ringCount d ∧ (ringCount d : Int) ≤ startFreq d ∧
    (∀ k, k < ringCount d → 1 ≤ ringWidth d k ∧ ringWidth d (k + 1) < ringWidth d k) ∧
    (∀ k, ringCount d ≤ k → ringWidth d k = 0)

/-- No decay has more than 136 rings; one ring exactly at 0 and 16383; 136 only at 16202; and the examples of R54 item 3. -/
def Obligations.RingCountBounds : Prop :=
  (∀ d : Nat, d < 16384 → ringCount d ≤ 136 ∧ (ringCount d = 1 ↔ (d = 0 ∨ d = 16383)) ∧ (ringCount d = 136 ↔ d = 16202)) ∧
  [1, 100, 4096, 8192, 12000, 15000, 16000, 16382].map ringCount = [2, 3, 8, 14, 25, 61, 119, 2]

/-- The rings never hold more than the total, so that every boundary is a legal one (R54 item 4). -/
def Obligations.RingMassAtMostTotal : Prop :=
  ∀ d : Nat, d < 16384 → 1 ≤ ringMass d ∧ ringMass d ≤ 32767 ∧ ∀ k, ringBase d k ≤ ringMass d

/-- The rings partition the positions below `S`, with no gap and no overlap (R52). -/
def Obligations.RingsPartition : Prop :=
  ∀ (d : Nat) (p : Int), d < 16384 →
    ((0 ≤ p ∧ p < ringMass d) ↔ ∃ k, k < ringCount d ∧ ringBase d k ≤ p ∧ p < ringBase d (k + 1)) ∧
    (∀ j k, j < ringCount d → k < ringCount d → ringBase d j ≤ p → p < ringBase d (j + 1) →
      ringBase d k ≤ p → p < ringBase d (k + 1) → j = k)

/-- The widths are iterated floors: at decays 12000 and 16000 a single floor gives other numbers at the rings named, and at decay 8192
the two agree for every ring (R84). -/
def Obligations.IterationIsNotSingleFloor : Prop :=
  ringWidth 12000 3 = 1987 ∧ ringWidth 12000 4 = 1455 ∧ ringWidth 12000 5 = 1065 ∧
  startFreq 12000 * 12000 ^ 3 / 16384 ^ 3 = 1988 ∧ startFreq 12000 * 12000 ^ 4 / 16384 ^ 4 = 1456 ∧
  startFreq 12000 * 12000 ^ 5 / 16384 ^ 5 = 1066 ∧
  ringWidth 16000 2 = 369 ∧ ringWidth 16000 3 = 360 ∧
  startFreq 16000 * 16000 ^ 2 / 16384 ^ 2 = 370 ∧ startFreq 16000 * 16000 ^ 3 / 16384 ^ 3 = 361 ∧
  ∀ k : Nat, ringWidth 8192 k = startFreq 8192 * 8192 ^ k / 16384 ^ k

/-! ## STARTFREQ -/

/-- STARTFREQ completes for every valid decay (R56): DECAY and FS take their new values, no request is made, and the one response is
DONE with the start frequency. That DECAY and FS still hold these values once the block is idle is the model's reading (log 4). (What it
does where the host does not take the response is `HostIsNeverWaitedFor`.) -/
def Obligations.StartfreqAnswers : Prop :=
  ∀ (d : Nat) (s : State), d < 16384 → s.rspReady = true → s.rsp = [] →
    ∃ (r : Regs) (result : Word32),
      exec (.startfreq d) s = .next (finished s r [.rspTaken (responseWord ⟨.done, result⟩)]) ∧
      (result.toNat : Int) = 32767 * (16384 - d) / (16384 + d) ∧ r.decay.toNat = d ∧ r.fs = result

/-! ## LAPENC -/

/-- Step 1 (R13, R59): S is 1 exactly for a negative value, and MAG is the mathematical absolute value, `2^31` for `-2^31`. -/
def Obligations.SignAndMagnitude : Prop :=
  ∀ (v : Int) (d : Nat) (r : Regs), -2147483648 ≤ v → v ≤ 2147483647 →
    (encStart v d r).s = decide (v < 0) ∧ (encStart v d r).mag.toNat = v.natAbs

/-- The walk of LAPENC (R61): it executes `min(|value|, K)` steps, of which `m = min(|value|, K - 1)` complete, and leaves
`FS = fs_m >= 1` and `FL = base_m`, or `-fs_0` for `m = 0`. -/
def Obligations.EncoderWalkReachesRing : Prop :=
  ∀ (v : Int) (d : Nat) (r : Regs), -2147483648 ≤ v → v ≤ 2147483647 → d < 16384 →
    let m := min v.natAbs (ringCount d - 1)
    let w := encWalk Config.walkBound (encStart v d r)
    encWalkSteps Config.walkBound (encStart v d r) = min v.natAbs (ringCount d) ∧
    w.i.toNat = m ∧ w.fs.toInt = ringWidth d m ∧ 1 ≤ w.fs.toInt ∧
    w.fl.toInt = (if m = 0 then -startFreq d else ringBase d m)

/-- LAPENC completes for every value and every valid decay, and emits the interval of the closed form (R65), in 16-bit fields that
lose nothing, out of 32767; then it answers DONE, 0. (What becomes of the range coder, `rc`, is
`ContractBrokenOnlyAtDecayZero` and `RangeCoderStanding`.) -/
def Obligations.LapencEmitsClosedForm : Prop :=
  ∀ (v : Int) (d : Nat) (s : State), -2147483648 ≤ v → v ≤ 2147483647 → d < 16384 → Willing s →
    let m := min v.natAbs (ringCount d - 1)
    encWalkSteps Config.walkBound (encStart v d s.regs) = min v.natAbs (ringCount d) ∧
    ∃ (r : Regs) (rc : RangeCoder) (low high : Word16),
      exec (.lapenc v d) s = .next
        { finished s r [.rcreqTaken (requestWord (.encInterval low high 32767#16)), .rspTaken (responseWord ⟨.done, 0#32⟩)] with
          rangeCoder := rc } ∧
      (m = 0 → 0 ≤ v → (low.toNat : Int) = 0 ∧ (high.toNat : Int) = startFreq d) ∧
      (m = 0 → v < 0 → ringCount d = 1 ∧ (low.toNat : Int) = startFreq d ∧ (high.toNat : Int) = 2 * startFreq d) ∧
      (1 ≤ m → 0 < v → (low.toNat : Int) = ringBase d m ∧ (high.toNat : Int) = ringBase d m + ringWidth d m) ∧
      (1 ≤ m → v < 0 → (low.toNat : Int) = ringBase d m + ringWidth d m ∧
        (high.toNat : Int) = ringBase d m + 2 * ringWidth d m ∧ (high.toNat : Int) = ringBase d (m + 1))

/-- A value whose magnitude is `K` or more is encoded as the last ring of non-zero width, silently (R61, R66 item 2, R102): LAPENC
emits and answers exactly what it does for magnitude `K - 1` of the same sign. -/
def Obligations.LapencSaturates : Prop :=
  ∀ (n : Nat) (d : Nat) (s : State), n ≤ 2147483647 → d < 16384 → Willing s → 2 ≤ ringCount d → ringCount d ≤ n →
    (∃ t u, exec (.lapenc n d) s = .next t ∧ exec (.lapenc ((ringCount d : Int) - 1) d) s = .next u ∧ t.trace = u.trace) ∧
    (∃ t u, exec (.lapenc (-n) d) s = .next t ∧ exec (.lapenc (1 - (ringCount d : Int)) d) s = .next u ∧ t.trace = u.trace)

/-- At decay 0 a negative value is encoded as 32767 to 65534 out of 32767, with status DONE; it breaks the range coder's
precondition, on which the range coder stops, and no other value and valid decay does (R66 items 3 and 5, R95, R101, U2). -/
def Obligations.ContractBrokenOnlyAtDecayZero : Prop :=
  ∀ (v : Int) (d : Nat) (s : State), -2147483648 ≤ v → v ≤ 2147483647 → d < 16384 → Willing s →
    ∃ t, exec (.lapenc v d) s = .next t ∧ (¬ ContractKept t ↔ (d = 0 ∧ v < 0)) ∧
      (d = 0 → v < 0 → t.trace = s.trace ++ [.rcreqTaken 0x00017FFFFFFE7FFF#64, .rspTaken 0#64])

/-- For every value but 0, the two signs get the two halves of one ring: adjacent, disjoint, of equal width, the positive one below
(R78); in the one-ring decays the second half lies outside ring 0. -/
def Obligations.SignSymmetry : Prop :=
  ∀ (n : Nat) (d : Nat) (s : State), 1 ≤ n → n ≤ 2147483647 → d < 16384 → Willing s →
    let m := min n (ringCount d - 1)
    ∃ (t u : State) (low mid high : Word16),
      exec (.lapenc n d) s = .next t ∧
      t.trace = s.trace ++ [.rcreqTaken (requestWord (.encInterval low mid 32767#16)), .rspTaken (responseWord ⟨.done, 0#32⟩)] ∧
      exec (.lapenc (-n) d) s = .next u ∧
      u.trace = s.trace ++ [.rcreqTaken (requestWord (.encInterval mid high 32767#16)), .rspTaken (responseWord ⟨.done, 0#32⟩)] ∧
      low.toNat < mid.toNat ∧ mid.toNat - low.toNat = high.toNat - mid.toNat ∧ mid.toNat < high.toNat ∧
      (1 ≤ m → (low.toNat : Int) = ringBase d m ∧ (mid.toNat : Int) = ringBase d m + ringWidth d m ∧
        (high.toNat : Int) = ringBase d m + 2 * ringWidth d m) ∧
      (m = 0 → ringCount d = 1 ∧ (d = 0 ∨ d = 16383) ∧ (low.toNat : Int) = 0 ∧ (mid.toNat : Int) = startFreq d ∧
        (high.toNat : Int) = 2 * startFreq d)

/-- Where the range coder does not take the request, because it is not ready or because it has stopped (R95, U2; log 9), LAPENC waits in
RUN with the request on offer: nothing is emitted and no response is given (R29 (c), R106). -/
def Obligations.LapencWaitsForRangeCoder : Prop :=
  ∀ (v : Int) (d : Nat) (s : State), d < 16384 → ¬ TakesRequests s → HostPrompt s →
    ∃ (r : Regs) (low high : Word16),
      exec (.lapenc v d) s = .next { s with mode := .run, regs := r, request := some (.encInterval low high 32767#16) }

/-! ## LAPDEC -/

/-- LAPDEC completes for every valid decay and every 16-bit answer, and its value and update are those of the closed form (R74), row
by row; its query is first, then the answer, the update and the response DONE. The registers after the walk show each row's
iterations, sign test and guard. -/
def Obligations.LapdecClosedForm : Prop :=
  ∀ (d : Nat) (fm : Word16) (rest : List Word16) (s : State), d < 16384 → Willing s → s.oracle = fm :: rest →
    let p : Int := fm.toNat
    let w := decWalked fm (loadDecay d s.regs)
    let testMade := 0 < w.fl.toInt
    let testTrue := w.fl.toInt + w.fs.toInt ≤ p
    let guardFires := (decSign w).fl = (decSign w).fh
    ∃ (r : Regs) (low high : Word16) (val : Word32),
      exec (.lapdec d) s = .next
        { finished s r [.rcreqTaken (requestWord (.decFreq 32767#16)), .rcrspTaken fm,
            .rcreqTaken (requestWord (.decUpdate low high 32767#16)), .rspTaken (responseWord ⟨.done, val⟩)] with oracle := rest } ∧
      (p < startFreq d → val.toInt = 0 ∧ (low.toNat : Int) = 0 ∧ (high.toNat : Int) = startFreq d ∧
        w.val.toInt = 0 ∧ ¬ testMade ∧ ¬ guardFires) ∧
      (∀ k, 1 ≤ k → k < ringCount d → ringBase d k ≤ p → p < ringBase d k + ringWidth d k →
        val.toInt = k ∧ (low.toNat : Int) = ringBase d k ∧ (high.toNat : Int) = ringBase d k + ringWidth d k ∧
        w.val.toInt = k ∧ testMade ∧ ¬ testTrue ∧ ¬ guardFires) ∧
      (∀ k, 1 ≤ k → k < ringCount d → ringBase d k + ringWidth d k ≤ p → p < ringBase d (k + 1) →
        val.toInt = -k ∧ (low.toNat : Int) = ringBase d k + ringWidth d k ∧ (high.toNat : Int) = ringBase d (k + 1) ∧
        w.val.toInt = k ∧ testMade ∧ testTrue ∧ ¬ guardFires) ∧
      (ringMass d ≤ p → val.toInt = -(ringCount d : Int) ∧ (low.toNat : Int) = ringMass d - 1 ∧ (high.toNat : Int) = ringMass d ∧
        w.val.toInt = ringCount d ∧ testMade ∧ testTrue ∧ guardFires)

/-- For every valid decay and every 16-bit answer the decoder ends after at most `K <= 136` iterations, its update keeps the range
coder's precondition, its value lies in `-K` to `K - 1`, and it answers DONE (R76); the range coder does not stop. -/
def Obligations.LapdecNeverFails : Prop :=
  ∀ (d : Nat) (fm : Word16) (rest : List Word16) (s : State), d < 16384 → Willing s → s.oracle = fm :: rest →
    (decWalked fm (loadDecay d s.regs)).val.toInt ≤ ringCount d ∧ ringCount d ≤ 136 ∧
    ∃ (t : State) (low high : Word16) (val : Word32),
      exec (.lapdec d) s = .next t ∧ t.rangeCoder = s.rangeCoder ∧
      t.trace = s.trace ++ [.rcreqTaken (requestWord (.decFreq 32767#16)), .rcrspTaken fm,
        .rcreqTaken (requestWord (.decUpdate low high 32767#16)), .rspTaken (responseWord ⟨.done, val⟩)] ∧
      low.toNat < high.toNat ∧ (high.toNat : Int) ≤ ringMass d ∧ ringMass d ≤ 32767 ∧
      -(ringCount d : Int) ≤ val.toInt ∧ val.toInt ≤ ringCount d - 1 ∧ -136 ≤ val.toInt ∧ val.toInt ≤ 135

/-- Where the range coder does not take the query, because it is not ready or because it has stopped (R95, U2; log 9), LAPDEC waits in RUN
with the query on offer, nothing emitted (R29, R67, R106), whatever answers there are. That only DECAY is written so far is log 4. -/
def Obligations.LapdecWaitsForRangeCoder : Prop :=
  ∀ (d : Nat) (s : State), d < 16384 → ¬ TakesRequests s → HostPrompt s →
    ∃ r : Regs,
      exec (.lapdec d) s = .next { s with mode := .run, regs := r, request := some (.decFreq 32767#16) } ∧
      r = { s.regs with decay := r.decay } ∧ r.decay.toNat = d

/-- Without an answer LAPDEC waits in WAIT_FM, its query emitted, with no timeout: a step in which nothing arrives changes nothing
(R68, R106). That the step answers the same state is log 13; that only DECAY is written so far is log 4. -/
def Obligations.LapdecWaitsForAnswer : Prop :=
  ∀ (d : Nat) (s : State), d < 16384 → TakesRequests s → HostPrompt s → s.oracle = [] → s.inputs = [] →
    ∃ r : Regs,
      let t := { s with mode := .waitFm, request := none, regs := r, trace := s.trace ++ [.rcreqTaken (requestWord (.decFreq 32767#16))] }
      exec (.lapdec d) s = .next t ∧ r = { s.regs with decay := r.decay } ∧ r.decay.toNat = d ∧ step t = .next t

/-- An answer that comes late changes nothing but the moment: a LAPDEC that has waited ends as one whose answer was there (R68). -/
def Obligations.LateAnswerChangesNothing : Prop :=
  ∀ (d : Nat) (fm : Word16) (rest : List Word16) (s : State), d < 16384 → Willing s → s.oracle = [] → s.inputs = [] →
    ∃ t u, exec (.lapdec d) s = .next t ∧ step { t with oracle := fm :: rest } = .next u ∧
      exec (.lapdec d) { s with oracle := fm :: rest } = .next u

/-! ## Both commands together -/

/-- The round trip (R77) with the agreement of the two intervals (R83): for a magnitude below `K`, LAPENC emits an interval, and LAPDEC,
given any position inside it, answers the value and updates with exactly that interval. -/
def Obligations.RoundTrip : Prop :=
  ∀ (v : Int) (d : Nat) (s : State), d < 16384 → v.natAbs + 1 ≤ ringCount d → -2147483648 ≤ v → v ≤ 2147483647 → Willing s →
    ∃ (t : State) (low high : Word16),
      exec (.lapenc v d) s = .next t ∧
      t.trace = s.trace ++ [.rcreqTaken (requestWord (.encInterval low high 32767#16)), .rspTaken (responseWord ⟨.done, 0#32⟩)] ∧
      low.toNat < high.toNat ∧
      ∀ (fm : Word16) (rest : List Word16) (s' : State), low.toNat ≤ fm.toNat → fm.toNat < high.toNat → Willing s' → s'.oracle = fm :: rest →
        ∃ (t' : State) (val : Word32), exec (.lapdec d) s' = .next t' ∧ val.toInt = v ∧
          t'.trace = s'.trace ++ [.rcreqTaken (requestWord (.decFreq 32767#16)), .rcrspTaken fm,
            .rcreqTaken (requestWord (.decUpdate low high 32767#16)), .rspTaken (responseWord ⟨.done, val⟩)]

/-- Saturation read back (R80): with two rings or more, a magnitude of `K` or more emits a legal, non-empty interval whose every
position decodes as the value clamped to magnitude `K - 1`, with the same interval. -/
def Obligations.SaturatedRoundTrip : Prop :=
  ∀ (v : Int) (d : Nat) (s : State), d < 16384 → 2 ≤ ringCount d → ringCount d ≤ v.natAbs → -2147483648 ≤ v → v ≤ 2147483647 → Willing s →
    ∃ (t : State) (low high : Word16),
      exec (.lapenc v d) s = .next t ∧
      t.trace = s.trace ++ [.rcreqTaken (requestWord (.encInterval low high 32767#16)), .rspTaken (responseWord ⟨.done, 0#32⟩)] ∧
      low.toNat < high.toNat ∧ high.toNat ≤ 32767 ∧
      ∀ (fm : Word16) (rest : List Word16) (s' : State), low.toNat ≤ fm.toNat → fm.toNat < high.toNat → Willing s' → s'.oracle = fm :: rest →
        ∃ (t' : State) (val : Word32), exec (.lapdec d) s' = .next t' ∧ val.toInt = (if v < 0 then -1 else 1) * ((ringCount d : Int) - 1) ∧
          t'.trace = s'.trace ++ [.rcreqTaken (requestWord (.decFreq 32767#16)), .rcrspTaken fm,
            .rcreqTaken (requestWord (.decUpdate low high 32767#16)), .rspTaken (responseWord ⟨.done, val⟩)]

/-- One generator for both walks (R57): on the way to ring `k` the encoder's registers and, for a position in that ring, the
decoder's hold the same boundary and the same width. -/
def Obligations.WalksAgree : Prop :=
  ∀ (d k : Nat) (fm : Word16) (r r' : Regs), d < 16384 → 1 ≤ k → k < ringCount d →
    ringBase d k ≤ (fm.toNat : Int) → (fm.toNat : Int) < ringBase d (k + 1) →
    (encWalk Config.walkBound (encStart k d r)).fl = (decWalked fm (loadDecay d r')).fl ∧
    (encWalk Config.walkBound (encStart k d r)).fs = (decWalked fm (loadDecay d r')).fs

/-- A command's result does not depend on what the working registers hold when it starts (R10, R19, U5): two states that differ in
them alone get the same outcome, the working registers aside. -/
def Obligations.RegistersDoNotMatter : Prop :=
  ∀ (i : Instr) (s : State) (r : Regs),
    (∃ (t : State) (r' : Regs), exec i s = .next t ∧ exec i { s with regs := r } = .next { t with regs := r' }) ∨
    (∃ e, exec i s = .refused e ∧ exec i { s with regs := r } = .refused e)

/-- The frame of the three commands, completed or waiting: each writes the registers its pseudocode names (R56, R58, R67) and no
other (the model's reading of R10 and R19, log 4), S by LAPENC alone (R13); of the channels only LAPDEC's one answer is taken, and
only LAPENC can stop the range coder (R76). -/
def Obligations.CommandFrames : Prop :=
  ∀ (i : Instr) (s t : State), exec i s = .next t →
    t.cmd = s.cmd ∧ t.inputs = s.inputs ∧ t.rcreqReady = s.rcreqReady ∧ t.rspReady = s.rspReady ∧
    (t.held = s.held ∨ (t.held = none ∧ t.mode = .idle)) ∧
    (t.rsp = [] ∨ t.rsp = s.rsp ∨ ∃ answer, t.rsp = s.rsp ++ [answer]) ∧
    (match i with
      | .startfreq _ =>
        t.regs = { s.regs with decay := t.regs.decay, fs := t.regs.fs } ∧ t.oracle = s.oracle ∧ t.rangeCoder = s.rangeCoder
      | .lapenc _ _ =>
        t.regs = { s.regs with
          decay := t.regs.decay, value := t.regs.value, s := t.regs.s, mag := t.regs.mag, i := t.regs.i,
          fs := t.regs.fs, fl := t.regs.fl, tl := t.regs.tl, ts := t.regs.ts } ∧ t.oracle = s.oracle
      | .lapdec _ =>
        t.regs = { s.regs with
          decay := t.regs.decay, fs := t.regs.fs, fl := t.regs.fl, fh := t.regs.fh, fm := t.regs.fm, val := t.regs.val } ∧
        (t.oracle = s.oracle ∨ ∃ fm, s.oracle = fm :: t.oracle) ∧ t.rangeCoder = s.rangeCoder)

/-- A command has a meaning exactly when its decay is valid (R55, R95, U1); a decay of 16384 or more is refused, whatever the
state. -/
def Obligations.RefusedExactlyOutOfContract : Prop :=
  ∀ (i : Instr) (s : State),
    (exec i s = .refused .decayOutOfContract ↔ 16384 ≤ i.decay) ∧ ((∃ t, exec i s = .next t) ↔ i.decay < 16384)

/-! ## The step -/

/-- A step runs the decoded command: idle, with nothing or its own move scheduled and `w` first on CMD, the block takes `w`, holds
it, goes to RUN and executes the command it decodes to (R29, R38). That one step goes so far is log 1. -/
def Obligations.StepRunsDecodedCommand : Prop :=
  ∀ (s : State) (w : Word64) (rest : List Word64) (i : Instr),
    s.mode = .idle → (s.inputs = [] ∨ ∃ later, s.inputs = .blockMoves :: later) → s.cmd = w :: rest → decode w = .ok i →
    step s = exec i { s with
      inputs := s.inputs.tail, cmd := rest, mode := .run, held := some w, trace := s.trace ++ [.cmdTaken w] }

/-- An illegal word (R39): no request, nothing changed but the word taken and answered ILLEGAL_CMD, 0, and the block is idle again (R8),
whatever its DECAY field holds (R89). That one move does it all is the model's choice (log 1, log 18). Where the host does not take the
response, it stays on RSP behind those not yet taken (R23); that the word is taken and answered, and the block idle, while these wait is
the model's reading of R8 and R91 (log 6). -/
def Obligations.IllegalWordAnswered : Prop :=
  ∀ (s : State) (w : Word64) (rest : List Word64),
    s.mode = .idle → s.inputs = [] → s.cmd = w :: rest →
    (w.toNat / 2 ^ 48 % 2 ^ 8 ≠ 0 ∨ (w.toNat / 2 ^ 56 ≠ 1 ∧ w.toNat / 2 ^ 56 ≠ 2 ∧ w.toNat / 2 ^ 56 ≠ 3)) →
    (s.rspReady = true → s.rsp = [] →
      step s = .next (finished { s with cmd := rest } s.regs [.cmdTaken w, .rspTaken 0x0000000100000000#64])) ∧
    (s.rspReady = false →
      step s = .next { finished { s with cmd := rest } s.regs [.cmdTaken w] with rsp := s.rsp ++ [⟨.illegalCmd, 0#32⟩] })

/-- A command in progress keeps the next word waiting: a move of the block that starts outside IDLE takes no word from CMD
(R29 (a)). -/
def Obligations.NoWordTakenUnlessIdle : Prop :=
  ∀ s t : State, s.mode ≠ .idle → s.inputs = [] → step s = .next t →
    t.cmd = s.cmd ∧ ∃ es, t.trace = s.trace ++ es ∧ ∀ w, Event.cmdTaken w ∉ es

/-- A run that is over (R107) stays over, whatever else is scheduled; and an idle block with nothing offered or scheduled does nothing
(R97). That doing nothing is a step that answers the same state is log 13; how `RunOver` counts what an RST withdrew is the model's
choice (log 21). -/
def Obligations.RunOverStaysOver : Prop :=
  ∀ s : State, RunOver s → ∃ t, step s = .next t ∧ RunOver t ∧ (s.inputs = [] → t = s)

/-- The block waits for ever for a range coder that does not move: in RUN for a request to be taken, in WAIT_FM for an answer (R91,
R106), and in both for one that has stopped (R95, U2; log 9). That waiting is a step that answers the same state is log 13; that it waits for the range coder alone, and not for the host,
is R91 as log 6 reads it. -/
def Obligations.StalledBlockWaits : Prop :=
  ∀ s : State, s.mode ≠ .idle → s.inputs = [] → HostPrompt s →
    ((s.request ≠ none ∧ s.rcreqReady = false) ∨ (s.request = none ∧ s.mode = .waitFm ∧ s.oracle = []) ∨ ¬ ContractKept s) →
    step s = .next s

/-- Waiting changes nothing but the moment: whatever the agents' readiness while a command runs, once both are ready one move of
the block ends it as if they had been ready all along (R23, R29, R106). What one move covers is log 1. -/
def Obligations.WaitingChangesNothing : Prop :=
  ∀ (i : Instr) (s t : State) (rcreq rsp : Bool), s.inputs = [] → (rsp = true → s.rsp = []) →
    exec i { s with rcreqReady := rcreq, rspReady := rsp } = .next t → t.mode ≠ .idle →
    step { t with rcreqReady := true, rspReady := true } = exec i { s with rcreqReady := true, rspReady := true }

/-- With willing agents and an answer at hand, one step takes a command word with a valid decay, or an illegal word, and answers it:
the word taken is the first event and the response the last, and the block is idle with the rest of CMD before it (R29, R106).
That one step does it all is log 1. -/
def Obligations.EachStepAnswersOneWord : Prop :=
  ∀ (s : State) (w : Word64) (rest : List Word64),
    s.mode = .idle → s.inputs = [] → s.cmd = w :: rest → Willing s → s.oracle ≠ [] → (∀ i, decode w = .ok i → i.decay < 16384) →
    ∃ (t : State) (es : List Event) (word : Word64),
      step s = .next t ∧ t.mode = .idle ∧ t.held = none ∧ t.request = none ∧ t.rsp = [] ∧ t.cmd = rest ∧
      t.trace = s.trace ++ [.cmdTaken w] ++ es ++ [.rspTaken word]

/-- A whole run (R106, R107): an idle block with willing agents, valid decays and enough answers takes and answers every word on CMD
and every word the host is scheduled to offer, in this order, one step to offer a word and one to run it (log 1, log 2), and the run is
over. No word but the last may be the LAPENC of R101, on which the range coder stops (R95). -/
def Obligations.EveryRunEnds : Prop :=
  ∀ (s : State) (later : List Word64), s.mode = .idle → s.held = none → s.request = none → s.inputs = later.map Input.command →
    Willing s → (s.cmd ++ later).length ≤ s.oracle.length → (∀ w ∈ s.cmd ++ later, ∀ i, decode w = .ok i → i.decay < 16384) →
    (∀ w ∈ (s.cmd ++ later).dropLast, ∀ v, decode w = .ok (.lapenc v 0) → 0 ≤ v) →
    ∃ t : State, Sys2Proof.core.run (later.length + (s.cmd ++ later).length) s = .next t ∧ RunOver t ∧ t.held = none ∧
      (t.trace.filter (fun e => match e with | .cmdTaken _ => true | _ => false)) =
        (s.trace.filter (fun e => match e with | .cmdTaken _ => true | _ => false)) ++ (s.cmd ++ later).map Event.cmdTaken ∧
      (t.trace.countP (fun e => match e with | .rspTaken _ => true | _ => false)) =
        (s.trace.countP (fun e => match e with | .rspTaken _ => true | _ => false)) + (s.cmd ++ later).length

/-- Nothing that has been transferred is taken back or reordered: a step only appends to the trace, a reset too (R23, R96). -/
def Obligations.TraceOnlyGrows : Prop :=
  ∀ s t : State, step s = .next t → ∃ es, t.trace = s.trace ++ es

/-- A range coder that has stopped stays so until the host sets it up anew (R96; log 9), RST included, and only an ENC_INTERVAL of LAPENC
can stop it: no step of a block that keeps the invariant stops it otherwise (R76, R95, R101, U2). -/
def Obligations.RangeCoderStanding : Prop :=
  ∀ s t : State, step s = .next t →
    (¬ ContractKept s → s.inputs.head? ≠ some .rangeCoderRestarted → ¬ ContractKept t) ∧
    (Inv s → ContractKept s → ¬ ContractKept t → ∃ low high : Word16,
      Event.rcreqTaken (requestWord (.encInterval low high 32767#16)) ∈ t.trace ∧ 32767 < high.toNat)

/-- A range coder that has stopped takes no request and gives no answer (R95, U2; that the environment's stop is this is log 9): no step
transfers a word on RCREQ or RCRSP, whatever arrives. -/
def Obligations.StoppedRangeCoderTransfersNothing : Prop :=
  ∀ s t : State, ¬ ContractKept s → step s = .next t →
    ∃ es, t.trace = s.trace ++ es ∧ (∀ w, Event.rcreqTaken w ∉ es) ∧ (∀ fm, Event.rcrspTaken fm ∉ es)

/-- No command waits for the host (R91, R106): with a range coder that moves and a host that takes nothing, a command of a valid decay
is answered and the block is idle again (R8), the response behind those on RSP (that RSP holds as many as come is log 6); and the same
command with a host that takes responses differs only in that they are taken. -/
def Obligations.HostIsNeverWaitedFor : Prop :=
  ∀ (i : Instr) (s : State), i.decay < 16384 → TakesRequests s → s.oracle ≠ [] → s.rspReady = false →
    ∃ (t : State) (result : Word32),
      exec i s = .next t ∧ t.mode = .idle ∧ t.held = none ∧ t.request = none ∧ t.rsp = s.rsp ++ [⟨.done, result⟩] ∧
      exec i { s with rspReady := true } = .next (hostTakes { t with rspReady := true })

/-- Responses are taken whole, in the order they were emitted (R23, R28): all by a host that becomes ready, and one by a host that takes
one. That these are the host's two moves is log 2. -/
def Obligations.ResponsesTakenInOrder : Prop :=
  ∀ (s : State) (later : List Input),
    step { s with inputs := .rspReady true :: later } = .next { s with
      inputs := later, rspReady := true, rsp := [], trace := s.trace ++ s.rsp.map fun r => .rspTaken (responseWord r) } ∧
    (∀ r rest, s.rsp = r :: rest → step { s with inputs := .takeResponse :: later } = .next { s with
      inputs := later, rsp := rest, trace := s.trace ++ [.rspTaken (responseWord r)] }) ∧
    (s.rsp = [] → step { s with inputs := .takeResponse :: later } = .next { s with inputs := later })

/-! ## Reset -/

/-- After reset (R21, R97): idle, no command held, the four channels empty, and with nothing offered the block does nothing. -/
def Obligations.ResetLeavesIdle : Prop :=
  State.reset.mode = .idle ∧ State.reset.held = none ∧ State.reset.cmd = [] ∧ State.reset.request = none ∧ State.reset.rsp = [] ∧
  State.reset.oracle = [] ∧ step State.reset = .next State.reset

/-- RST (R21, R96) abandons the command in progress: idle, nothing held, no response, all four channels empty, the words offered and not
taken withdrawn; what has been taken stays taken, and neither the range coder nor what the agents do later is touched. That `cmd` and
`oracle` are what the channels CMD and RCRSP hold is the model's reading (log 7). -/
def Obligations.RstAbandonsCommand : Prop :=
  ∀ (s : State) (rest : List Input), s.inputs = .rst :: rest →
    ∃ t, step s = .next t ∧ t.mode = .idle ∧ t.held = none ∧ t.cmd = [] ∧ t.request = none ∧ t.rsp = [] ∧ t.oracle = [] ∧
      t.trace = s.trace ++ [.reset] ∧ t.rangeCoder = s.rangeCoder ∧ t.rcreqReady = s.rcreqReady ∧ t.rspReady = s.rspReady ∧ t.inputs = rest

/-- After RST, with the channels empty (R21), the first word offered is the first command executed (R97), whatever was in progress before.
That a word offered before RST and not taken does not come back, and that an answer settled before RST is not delivered, is no rule: it
is the model's reading that R21's empty channels take them away (log 7). U6 leaves keeping stale answers out to whoever resets the
block. -/
def Obligations.FirstWordAfterRstRunsFirst : Prop :=
  ∀ (s : State) (w : Word64) (fm : Word16), s.inputs = [.rst, .command w, .answer fm] →
    ∃ t : State, Sys2Proof.core.run 3 s = .next t ∧ t.cmd = [w] ∧ t.oracle = [fm] ∧
      step t = runWord w { t with cmd := [] }

/-- What arrives from outside touches its own channel and nothing of the block (R6, R23; the schedule is the model's, log 2; the range
coder set up anew is R96's, log 9; what a host that takes responses does is `ResponsesTakenInOrder`). -/
def Obligations.InputsTouchTheirChannel : Prop :=
  ∀ (s : State) (rest : List Input) (w : Word64) (fm : Word16) (ready : Bool),
    step { s with inputs := .command w :: rest } = .next { s with inputs := rest, cmd := s.cmd ++ [w] } ∧
    step { s with inputs := .answer fm :: rest } = .next { s with inputs := rest, oracle := s.oracle ++ [fm] } ∧
    step { s with inputs := .rcreqReady ready :: rest } = .next { s with inputs := rest, rcreqReady := ready } ∧
    step { s with inputs := .rspReady false :: rest } = .next { s with inputs := rest, rspReady := false } ∧
    step { s with inputs := .rangeCoderRestarted :: rest } = .next { s with inputs := rest, rangeCoder := .inContract }

/-! ## The invariant -/

/-- The state after reset meets the invariant. -/
def Obligations.InvAtReset : Prop := Inv State.reset

/-- Every step keeps the invariant: the transfers follow the protocol of R29, R38, R39, R41, R42 and R96, requests carry non-empty
intervals out of 32767 (R24, R26), MODE, the held word and the offered request are those of the phase reached (R11), and RSP holds the
responses owed, in order. That a response not yet taken leaves the block idle, its word no longer held, an illegal word's too (R8, R91),
and that further words are taken meanwhile, is log 6. -/
def Obligations.StepKeepsInv : Prop := ∀ s t : State, Inv s → step s = .next t → Inv t
end

