-- ==== Sys2Proof/Laws/Channels.lean ====
section
/-! SUPPORT. The range coder's precondition read as inequalities (spec/20_memory.md R24, R26), and the range coder after a request. -/

namespace Sys2Proof.Machine

theorem preconditionHolds_encInterval (low high total : Word16) :
    preconditionHolds (.encInterval low high total) = true ↔ low.toNat < high.toNat ∧ high.toNat ≤ total.toNat := by
  simp [preconditionHolds]

theorem preconditionHolds_decUpdate (low high total : Word16) :
    preconditionHolds (.decUpdate low high total) = true ↔ low.toNat < high.toNat ∧ high.toNat ≤ total.toNat := by
  simp [preconditionHolds]

theorem rangeCoderAfter_kept {rc : RangeCoder} {r : Request} (h : preconditionHolds r = true) : rangeCoderAfter rc r = rc := by
  simp [rangeCoderAfter, h]

theorem rangeCoderAfter_stopped {rc : RangeCoder} {r : Request} (h : preconditionHolds r ≠ true) :
    rangeCoderAfter rc r = .encodeIntervalPreconditionViolated := by
  simp [rangeCoderAfter, h]

end Sys2Proof.Machine
end

