-- ==== Sys2Proof/Laws/Encoding.lean ====
section
/-! SUPPORT. A word that is laid out from fields, read back field by field (spec/30_encoding.md R35, R41, R42). -/

namespace Sys2Proof

/-- A field is read by division: the bits from `k` on, as many as the field has. -/
theorem extract_eq_of_toNat {n : Nat} (w : Word64) (k : Nat) (x : BitVec n) (h : w.toNat / 2 ^ k % 2 ^ n = x.toNat) :
    w.extractLsb' k n = x := by
  apply BitVec.eq_of_toNat_eq
  rw [BitVec.extractLsb'_toNat, Nat.shiftRight_eq_div_pow, h]

theorem commandWord_toNat (op rsv : Byte) (decay : Word16) (value : Word32) :
    (commandWord op rsv decay value).toNat = op.toNat * 2 ^ 56 + rsv.toNat * 2 ^ 48 + decay.toNat * 2 ^ 32 + value.toNat := by
  simp only [commandWord, BitVec.toNat_ofNat]
  omega

/-- The four fields of a command word are the ones it was laid out from (R35). -/
theorem commandWord_fields (op rsv : Byte) (decay : Word16) (value : Word32) :
    opField (commandWord op rsv decay value) = op ∧ rsvField (commandWord op rsv decay value) = rsv ∧
    decayField (commandWord op rsv decay value) = decay ∧ valueField (commandWord op rsv decay value) = value := by
  refine ⟨?_, ?_, ?_, ?_⟩ <;> apply extract_eq_of_toNat <;> rw [commandWord_toNat] <;> simp <;> omega

/-- The fields of any command word, as numbers. -/
theorem fields_toNat (w : Word64) :
    (opField w).toNat = w.toNat / 2 ^ 56 ∧ (rsvField w).toNat = w.toNat / 2 ^ 48 % 2 ^ 8 ∧
    (decayField w).toNat = w.toNat / 2 ^ 32 % 2 ^ 16 ∧ (valueField w).toNat = w.toNat % 2 ^ 32 := by
  simp [opField, rsvField, decayField, valueField, BitVec.extractLsb'_toNat, Nat.shiftRight_eq_div_pow]
  omega

end Sys2Proof

namespace Sys2Proof.Machine

theorem rcreqWord_toNat (kind : BitVec 2) (low high total : Word16) :
    (rcreqWord kind low high total).toNat = kind.toNat * 2 ^ 48 + low.toNat * 2 ^ 32 + high.toNat * 2 ^ 16 + total.toNat := by
  have := kind.isLt
  simp only [rcreqWord, BitVec.toNat_ofNat]
  omega

/-- The fields of a request word are the ones it was laid out from, and its upper bits are zero (R42). -/
theorem rcreqWord_fields (kind : BitVec 2) (low high total : Word16) :
    (rcreqWord kind low high total).extractLsb' 0 16 = total ∧ (rcreqWord kind low high total).extractLsb' 16 16 = high ∧
    (rcreqWord kind low high total).extractLsb' 32 16 = low ∧ (rcreqWord kind low high total).extractLsb' 48 2 = kind ∧
    (rcreqWord kind low high total).extractLsb' 50 14 = 0#14 := by
  have := kind.isLt
  refine ⟨?_, ?_, ?_, ?_, ?_⟩ <;> apply extract_eq_of_toNat <;> rw [rcreqWord_toNat] <;> simp <;> omega

theorem responseWord_toNat (r : Response) : (responseWord r).toNat = (statusCode r.status).toNat * 2 ^ 32 + r.result.toNat := by
  have := (statusCode r.status).isLt
  simp only [responseWord, BitVec.toNat_ofNat]
  omega

/-- The fields of a response word are the ones it was laid out from, and its upper bits are zero (R41). -/
theorem responseWord_fields (r : Response) :
    (responseWord r).extractLsb' 0 32 = r.result ∧ (responseWord r).extractLsb' 32 8 = statusCode r.status ∧
    (responseWord r).extractLsb' 40 24 = 0#24 := by
  have := (statusCode r.status).isLt
  refine ⟨?_, ?_, ?_⟩ <;> apply extract_eq_of_toNat <;> rw [responseWord_toNat] <;> simp <;> omega

end Sys2Proof.Machine
end

