-- ==== Sys2Proof/Laws/State.lean ====
section
/-! SUPPORT. One lemma for each field under each update of the working registers and of the state, true by definition, so that no
later proof unfolds an update. -/

namespace Sys2Proof.Machine

/-! ## The working registers -/

@[simp] theorem Regs.setValue_decay (r : Regs) (v : Int) : (r.setValue v).decay = r.decay := rfl
@[simp] theorem Regs.setValue_value (r : Regs) (v : Int) : (r.setValue v).value = twos32 v := rfl
@[simp] theorem Regs.setValue_s (r : Regs) (v : Int) : (r.setValue v).s = r.s := rfl
@[simp] theorem Regs.setValue_mag (r : Regs) (v : Int) : (r.setValue v).mag = r.mag := rfl
@[simp] theorem Regs.setValue_i (r : Regs) (v : Int) : (r.setValue v).i = r.i := rfl
@[simp] theorem Regs.setValue_fs (r : Regs) (v : Int) : (r.setValue v).fs = r.fs := rfl
@[simp] theorem Regs.setValue_fl (r : Regs) (v : Int) : (r.setValue v).fl = r.fl := rfl
@[simp] theorem Regs.setValue_fh (r : Regs) (v : Int) : (r.setValue v).fh = r.fh := rfl
@[simp] theorem Regs.setValue_fm (r : Regs) (v : Int) : (r.setValue v).fm = r.fm := rfl
@[simp] theorem Regs.setValue_val (r : Regs) (v : Int) : (r.setValue v).val = r.val := rfl
@[simp] theorem Regs.setValue_tl (r : Regs) (v : Int) : (r.setValue v).tl = r.tl := rfl
@[simp] theorem Regs.setValue_ts (r : Regs) (v : Int) : (r.setValue v).ts = r.ts := rfl

@[simp] theorem Regs.setFs_decay (r : Regs) (v : Int) : (r.setFs v).decay = r.decay := rfl
@[simp] theorem Regs.setFs_value (r : Regs) (v : Int) : (r.setFs v).value = r.value := rfl
@[simp] theorem Regs.setFs_s (r : Regs) (v : Int) : (r.setFs v).s = r.s := rfl
@[simp] theorem Regs.setFs_mag (r : Regs) (v : Int) : (r.setFs v).mag = r.mag := rfl
@[simp] theorem Regs.setFs_i (r : Regs) (v : Int) : (r.setFs v).i = r.i := rfl
@[simp] theorem Regs.setFs_fs (r : Regs) (v : Int) : (r.setFs v).fs = twos32 v := rfl
@[simp] theorem Regs.setFs_fl (r : Regs) (v : Int) : (r.setFs v).fl = r.fl := rfl
@[simp] theorem Regs.setFs_fh (r : Regs) (v : Int) : (r.setFs v).fh = r.fh := rfl
@[simp] theorem Regs.setFs_fm (r : Regs) (v : Int) : (r.setFs v).fm = r.fm := rfl
@[simp] theorem Regs.setFs_val (r : Regs) (v : Int) : (r.setFs v).val = r.val := rfl
@[simp] theorem Regs.setFs_tl (r : Regs) (v : Int) : (r.setFs v).tl = r.tl := rfl
@[simp] theorem Regs.setFs_ts (r : Regs) (v : Int) : (r.setFs v).ts = r.ts := rfl

@[simp] theorem Regs.setFl_decay (r : Regs) (v : Int) : (r.setFl v).decay = r.decay := rfl
@[simp] theorem Regs.setFl_value (r : Regs) (v : Int) : (r.setFl v).value = r.value := rfl
@[simp] theorem Regs.setFl_s (r : Regs) (v : Int) : (r.setFl v).s = r.s := rfl
@[simp] theorem Regs.setFl_mag (r : Regs) (v : Int) : (r.setFl v).mag = r.mag := rfl
@[simp] theorem Regs.setFl_i (r : Regs) (v : Int) : (r.setFl v).i = r.i := rfl
@[simp] theorem Regs.setFl_fs (r : Regs) (v : Int) : (r.setFl v).fs = r.fs := rfl
@[simp] theorem Regs.setFl_fl (r : Regs) (v : Int) : (r.setFl v).fl = twos32 v := rfl
@[simp] theorem Regs.setFl_fh (r : Regs) (v : Int) : (r.setFl v).fh = r.fh := rfl
@[simp] theorem Regs.setFl_fm (r : Regs) (v : Int) : (r.setFl v).fm = r.fm := rfl
@[simp] theorem Regs.setFl_val (r : Regs) (v : Int) : (r.setFl v).val = r.val := rfl
@[simp] theorem Regs.setFl_tl (r : Regs) (v : Int) : (r.setFl v).tl = r.tl := rfl
@[simp] theorem Regs.setFl_ts (r : Regs) (v : Int) : (r.setFl v).ts = r.ts := rfl

@[simp] theorem Regs.setFh_decay (r : Regs) (v : Int) : (r.setFh v).decay = r.decay := rfl
@[simp] theorem Regs.setFh_value (r : Regs) (v : Int) : (r.setFh v).value = r.value := rfl
@[simp] theorem Regs.setFh_s (r : Regs) (v : Int) : (r.setFh v).s = r.s := rfl
@[simp] theorem Regs.setFh_mag (r : Regs) (v : Int) : (r.setFh v).mag = r.mag := rfl
@[simp] theorem Regs.setFh_i (r : Regs) (v : Int) : (r.setFh v).i = r.i := rfl
@[simp] theorem Regs.setFh_fs (r : Regs) (v : Int) : (r.setFh v).fs = r.fs := rfl
@[simp] theorem Regs.setFh_fl (r : Regs) (v : Int) : (r.setFh v).fl = r.fl := rfl
@[simp] theorem Regs.setFh_fh (r : Regs) (v : Int) : (r.setFh v).fh = twos32 v := rfl
@[simp] theorem Regs.setFh_fm (r : Regs) (v : Int) : (r.setFh v).fm = r.fm := rfl
@[simp] theorem Regs.setFh_val (r : Regs) (v : Int) : (r.setFh v).val = r.val := rfl
@[simp] theorem Regs.setFh_tl (r : Regs) (v : Int) : (r.setFh v).tl = r.tl := rfl
@[simp] theorem Regs.setFh_ts (r : Regs) (v : Int) : (r.setFh v).ts = r.ts := rfl

@[simp] theorem Regs.setFm_decay (r : Regs) (v : Int) : (r.setFm v).decay = r.decay := rfl
@[simp] theorem Regs.setFm_value (r : Regs) (v : Int) : (r.setFm v).value = r.value := rfl
@[simp] theorem Regs.setFm_s (r : Regs) (v : Int) : (r.setFm v).s = r.s := rfl
@[simp] theorem Regs.setFm_mag (r : Regs) (v : Int) : (r.setFm v).mag = r.mag := rfl
@[simp] theorem Regs.setFm_i (r : Regs) (v : Int) : (r.setFm v).i = r.i := rfl
@[simp] theorem Regs.setFm_fs (r : Regs) (v : Int) : (r.setFm v).fs = r.fs := rfl
@[simp] theorem Regs.setFm_fl (r : Regs) (v : Int) : (r.setFm v).fl = r.fl := rfl
@[simp] theorem Regs.setFm_fh (r : Regs) (v : Int) : (r.setFm v).fh = r.fh := rfl
@[simp] theorem Regs.setFm_fm (r : Regs) (v : Int) : (r.setFm v).fm = twos32 v := rfl
@[simp] theorem Regs.setFm_val (r : Regs) (v : Int) : (r.setFm v).val = r.val := rfl
@[simp] theorem Regs.setFm_tl (r : Regs) (v : Int) : (r.setFm v).tl = r.tl := rfl
@[simp] theorem Regs.setFm_ts (r : Regs) (v : Int) : (r.setFm v).ts = r.ts := rfl

@[simp] theorem Regs.setVal_decay (r : Regs) (v : Int) : (r.setVal v).decay = r.decay := rfl
@[simp] theorem Regs.setVal_value (r : Regs) (v : Int) : (r.setVal v).value = r.value := rfl
@[simp] theorem Regs.setVal_s (r : Regs) (v : Int) : (r.setVal v).s = r.s := rfl
@[simp] theorem Regs.setVal_mag (r : Regs) (v : Int) : (r.setVal v).mag = r.mag := rfl
@[simp] theorem Regs.setVal_i (r : Regs) (v : Int) : (r.setVal v).i = r.i := rfl
@[simp] theorem Regs.setVal_fs (r : Regs) (v : Int) : (r.setVal v).fs = r.fs := rfl
@[simp] theorem Regs.setVal_fl (r : Regs) (v : Int) : (r.setVal v).fl = r.fl := rfl
@[simp] theorem Regs.setVal_fh (r : Regs) (v : Int) : (r.setVal v).fh = r.fh := rfl
@[simp] theorem Regs.setVal_fm (r : Regs) (v : Int) : (r.setVal v).fm = r.fm := rfl
@[simp] theorem Regs.setVal_val (r : Regs) (v : Int) : (r.setVal v).val = twos32 v := rfl
@[simp] theorem Regs.setVal_tl (r : Regs) (v : Int) : (r.setVal v).tl = r.tl := rfl
@[simp] theorem Regs.setVal_ts (r : Regs) (v : Int) : (r.setVal v).ts = r.ts := rfl

@[simp] theorem Regs.setTl_decay (r : Regs) (v : Int) : (r.setTl v).decay = r.decay := rfl
@[simp] theorem Regs.setTl_value (r : Regs) (v : Int) : (r.setTl v).value = r.value := rfl
@[simp] theorem Regs.setTl_s (r : Regs) (v : Int) : (r.setTl v).s = r.s := rfl
@[simp] theorem Regs.setTl_mag (r : Regs) (v : Int) : (r.setTl v).mag = r.mag := rfl
@[simp] theorem Regs.setTl_i (r : Regs) (v : Int) : (r.setTl v).i = r.i := rfl
@[simp] theorem Regs.setTl_fs (r : Regs) (v : Int) : (r.setTl v).fs = r.fs := rfl
@[simp] theorem Regs.setTl_fl (r : Regs) (v : Int) : (r.setTl v).fl = r.fl := rfl
@[simp] theorem Regs.setTl_fh (r : Regs) (v : Int) : (r.setTl v).fh = r.fh := rfl
@[simp] theorem Regs.setTl_fm (r : Regs) (v : Int) : (r.setTl v).fm = r.fm := rfl
@[simp] theorem Regs.setTl_val (r : Regs) (v : Int) : (r.setTl v).val = r.val := rfl
@[simp] theorem Regs.setTl_tl (r : Regs) (v : Int) : (r.setTl v).tl = twos32 v := rfl
@[simp] theorem Regs.setTl_ts (r : Regs) (v : Int) : (r.setTl v).ts = r.ts := rfl

@[simp] theorem Regs.setTs_decay (r : Regs) (v : Int) : (r.setTs v).decay = r.decay := rfl
@[simp] theorem Regs.setTs_value (r : Regs) (v : Int) : (r.setTs v).value = r.value := rfl
@[simp] theorem Regs.setTs_s (r : Regs) (v : Int) : (r.setTs v).s = r.s := rfl
@[simp] theorem Regs.setTs_mag (r : Regs) (v : Int) : (r.setTs v).mag = r.mag := rfl
@[simp] theorem Regs.setTs_i (r : Regs) (v : Int) : (r.setTs v).i = r.i := rfl
@[simp] theorem Regs.setTs_fs (r : Regs) (v : Int) : (r.setTs v).fs = r.fs := rfl
@[simp] theorem Regs.setTs_fl (r : Regs) (v : Int) : (r.setTs v).fl = r.fl := rfl
@[simp] theorem Regs.setTs_fh (r : Regs) (v : Int) : (r.setTs v).fh = r.fh := rfl
@[simp] theorem Regs.setTs_fm (r : Regs) (v : Int) : (r.setTs v).fm = r.fm := rfl
@[simp] theorem Regs.setTs_val (r : Regs) (v : Int) : (r.setTs v).val = r.val := rfl
@[simp] theorem Regs.setTs_tl (r : Regs) (v : Int) : (r.setTs v).tl = r.tl := rfl
@[simp] theorem Regs.setTs_ts (r : Regs) (v : Int) : (r.setTs v).ts = twos32 v := rfl

@[simp] theorem Regs.setDecay_decay (r : Regs) (v : Nat) : (r.setDecay v).decay = BitVec.ofNat 16 v := rfl
@[simp] theorem Regs.setDecay_value (r : Regs) (v : Nat) : (r.setDecay v).value = r.value := rfl
@[simp] theorem Regs.setDecay_s (r : Regs) (v : Nat) : (r.setDecay v).s = r.s := rfl
@[simp] theorem Regs.setDecay_mag (r : Regs) (v : Nat) : (r.setDecay v).mag = r.mag := rfl
@[simp] theorem Regs.setDecay_i (r : Regs) (v : Nat) : (r.setDecay v).i = r.i := rfl
@[simp] theorem Regs.setDecay_fs (r : Regs) (v : Nat) : (r.setDecay v).fs = r.fs := rfl
@[simp] theorem Regs.setDecay_fl (r : Regs) (v : Nat) : (r.setDecay v).fl = r.fl := rfl
@[simp] theorem Regs.setDecay_fh (r : Regs) (v : Nat) : (r.setDecay v).fh = r.fh := rfl
@[simp] theorem Regs.setDecay_fm (r : Regs) (v : Nat) : (r.setDecay v).fm = r.fm := rfl
@[simp] theorem Regs.setDecay_val (r : Regs) (v : Nat) : (r.setDecay v).val = r.val := rfl
@[simp] theorem Regs.setDecay_tl (r : Regs) (v : Nat) : (r.setDecay v).tl = r.tl := rfl
@[simp] theorem Regs.setDecay_ts (r : Regs) (v : Nat) : (r.setDecay v).ts = r.ts := rfl

@[simp] theorem Regs.setMag_decay (r : Regs) (v : Nat) : (r.setMag v).decay = r.decay := rfl
@[simp] theorem Regs.setMag_value (r : Regs) (v : Nat) : (r.setMag v).value = r.value := rfl
@[simp] theorem Regs.setMag_s (r : Regs) (v : Nat) : (r.setMag v).s = r.s := rfl
@[simp] theorem Regs.setMag_mag (r : Regs) (v : Nat) : (r.setMag v).mag = BitVec.ofNat 32 v := rfl
@[simp] theorem Regs.setMag_i (r : Regs) (v : Nat) : (r.setMag v).i = r.i := rfl
@[simp] theorem Regs.setMag_fs (r : Regs) (v : Nat) : (r.setMag v).fs = r.fs := rfl
@[simp] theorem Regs.setMag_fl (r : Regs) (v : Nat) : (r.setMag v).fl = r.fl := rfl
@[simp] theorem Regs.setMag_fh (r : Regs) (v : Nat) : (r.setMag v).fh = r.fh := rfl
@[simp] theorem Regs.setMag_fm (r : Regs) (v : Nat) : (r.setMag v).fm = r.fm := rfl
@[simp] theorem Regs.setMag_val (r : Regs) (v : Nat) : (r.setMag v).val = r.val := rfl
@[simp] theorem Regs.setMag_tl (r : Regs) (v : Nat) : (r.setMag v).tl = r.tl := rfl
@[simp] theorem Regs.setMag_ts (r : Regs) (v : Nat) : (r.setMag v).ts = r.ts := rfl

@[simp] theorem Regs.setI_decay (r : Regs) (v : Nat) : (r.setI v).decay = r.decay := rfl
@[simp] theorem Regs.setI_value (r : Regs) (v : Nat) : (r.setI v).value = r.value := rfl
@[simp] theorem Regs.setI_s (r : Regs) (v : Nat) : (r.setI v).s = r.s := rfl
@[simp] theorem Regs.setI_mag (r : Regs) (v : Nat) : (r.setI v).mag = r.mag := rfl
@[simp] theorem Regs.setI_i (r : Regs) (v : Nat) : (r.setI v).i = BitVec.ofNat 32 v := rfl
@[simp] theorem Regs.setI_fs (r : Regs) (v : Nat) : (r.setI v).fs = r.fs := rfl
@[simp] theorem Regs.setI_fl (r : Regs) (v : Nat) : (r.setI v).fl = r.fl := rfl
@[simp] theorem Regs.setI_fh (r : Regs) (v : Nat) : (r.setI v).fh = r.fh := rfl
@[simp] theorem Regs.setI_fm (r : Regs) (v : Nat) : (r.setI v).fm = r.fm := rfl
@[simp] theorem Regs.setI_val (r : Regs) (v : Nat) : (r.setI v).val = r.val := rfl
@[simp] theorem Regs.setI_tl (r : Regs) (v : Nat) : (r.setI v).tl = r.tl := rfl
@[simp] theorem Regs.setI_ts (r : Regs) (v : Nat) : (r.setI v).ts = r.ts := rfl

@[simp] theorem Regs.setS_decay (r : Regs) (v : Bool) : (r.setS v).decay = r.decay := rfl
@[simp] theorem Regs.setS_value (r : Regs) (v : Bool) : (r.setS v).value = r.value := rfl
@[simp] theorem Regs.setS_s (r : Regs) (v : Bool) : (r.setS v).s = v := rfl
@[simp] theorem Regs.setS_mag (r : Regs) (v : Bool) : (r.setS v).mag = r.mag := rfl
@[simp] theorem Regs.setS_i (r : Regs) (v : Bool) : (r.setS v).i = r.i := rfl
@[simp] theorem Regs.setS_fs (r : Regs) (v : Bool) : (r.setS v).fs = r.fs := rfl
@[simp] theorem Regs.setS_fl (r : Regs) (v : Bool) : (r.setS v).fl = r.fl := rfl
@[simp] theorem Regs.setS_fh (r : Regs) (v : Bool) : (r.setS v).fh = r.fh := rfl
@[simp] theorem Regs.setS_fm (r : Regs) (v : Bool) : (r.setS v).fm = r.fm := rfl
@[simp] theorem Regs.setS_val (r : Regs) (v : Bool) : (r.setS v).val = r.val := rfl
@[simp] theorem Regs.setS_tl (r : Regs) (v : Bool) : (r.setS v).tl = r.tl := rfl
@[simp] theorem Regs.setS_ts (r : Regs) (v : Bool) : (r.setS v).ts = r.ts := rfl

/-! ## The updates of the state -/

@[simp] theorem State.mapRegs_mode (s : State) (f : Regs → Regs) : (s.mapRegs f).mode = s.mode := rfl
@[simp] theorem State.mapRegs_held (s : State) (f : Regs → Regs) : (s.mapRegs f).held = s.held := rfl
@[simp] theorem State.mapRegs_regs (s : State) (f : Regs → Regs) : (s.mapRegs f).regs = f s.regs := rfl
@[simp] theorem State.mapRegs_cmd (s : State) (f : Regs → Regs) : (s.mapRegs f).cmd = s.cmd := rfl
@[simp] theorem State.mapRegs_request (s : State) (f : Regs → Regs) : (s.mapRegs f).request = s.request := rfl
@[simp] theorem State.mapRegs_rsp (s : State) (f : Regs → Regs) : (s.mapRegs f).rsp = s.rsp := rfl
@[simp] theorem State.mapRegs_oracle (s : State) (f : Regs → Regs) : (s.mapRegs f).oracle = s.oracle := rfl
@[simp] theorem State.mapRegs_rcreqReady (s : State) (f : Regs → Regs) : (s.mapRegs f).rcreqReady = s.rcreqReady := rfl
@[simp] theorem State.mapRegs_rspReady (s : State) (f : Regs → Regs) : (s.mapRegs f).rspReady = s.rspReady := rfl
@[simp] theorem State.mapRegs_rangeCoder (s : State) (f : Regs → Regs) : (s.mapRegs f).rangeCoder = s.rangeCoder := rfl
@[simp] theorem State.mapRegs_inputs (s : State) (f : Regs → Regs) : (s.mapRegs f).inputs = s.inputs := rfl
@[simp] theorem State.mapRegs_trace (s : State) (f : Regs → Regs) : (s.mapRegs f).trace = s.trace := rfl

@[simp] theorem State.offering_mode (s : State) (r : Request) : (s.offering r).mode = .run := rfl
@[simp] theorem State.offering_held (s : State) (r : Request) : (s.offering r).held = s.held := rfl
@[simp] theorem State.offering_regs (s : State) (r : Request) : (s.offering r).regs = s.regs := rfl
@[simp] theorem State.offering_cmd (s : State) (r : Request) : (s.offering r).cmd = s.cmd := rfl
@[simp] theorem State.offering_request (s : State) (r : Request) : (s.offering r).request = some r := rfl
@[simp] theorem State.offering_rsp (s : State) (r : Request) : (s.offering r).rsp = s.rsp := rfl
@[simp] theorem State.offering_oracle (s : State) (r : Request) : (s.offering r).oracle = s.oracle := rfl
@[simp] theorem State.offering_rcreqReady (s : State) (r : Request) : (s.offering r).rcreqReady = s.rcreqReady := rfl
@[simp] theorem State.offering_rspReady (s : State) (r : Request) : (s.offering r).rspReady = s.rspReady := rfl
@[simp] theorem State.offering_rangeCoder (s : State) (r : Request) : (s.offering r).rangeCoder = s.rangeCoder := rfl
@[simp] theorem State.offering_inputs (s : State) (r : Request) : (s.offering r).inputs = s.inputs := rfl
@[simp] theorem State.offering_trace (s : State) (r : Request) : (s.offering r).trace = s.trace := rfl

@[simp] theorem State.record_mode (s : State) (e : Event) : (s.record e).mode = s.mode := rfl
@[simp] theorem State.record_held (s : State) (e : Event) : (s.record e).held = s.held := rfl
@[simp] theorem State.record_regs (s : State) (e : Event) : (s.record e).regs = s.regs := rfl
@[simp] theorem State.record_cmd (s : State) (e : Event) : (s.record e).cmd = s.cmd := rfl
@[simp] theorem State.record_request (s : State) (e : Event) : (s.record e).request = s.request := rfl
@[simp] theorem State.record_rsp (s : State) (e : Event) : (s.record e).rsp = s.rsp := rfl
@[simp] theorem State.record_oracle (s : State) (e : Event) : (s.record e).oracle = s.oracle := rfl
@[simp] theorem State.record_rcreqReady (s : State) (e : Event) : (s.record e).rcreqReady = s.rcreqReady := rfl
@[simp] theorem State.record_rspReady (s : State) (e : Event) : (s.record e).rspReady = s.rspReady := rfl
@[simp] theorem State.record_rangeCoder (s : State) (e : Event) : (s.record e).rangeCoder = s.rangeCoder := rfl
@[simp] theorem State.record_inputs (s : State) (e : Event) : (s.record e).inputs = s.inputs := rfl
@[simp] theorem State.record_trace (s : State) (e : Event) : (s.record e).trace = s.trace ++ [e] := rfl

@[simp] theorem respond_mode (st : Status) (res : Word32) (s : State) : (respond st res s).mode = .idle := rfl
@[simp] theorem respond_held (st : Status) (res : Word32) (s : State) : (respond st res s).held = none := rfl
@[simp] theorem respond_regs (st : Status) (res : Word32) (s : State) : (respond st res s).regs = s.regs := rfl
@[simp] theorem respond_cmd (st : Status) (res : Word32) (s : State) : (respond st res s).cmd = s.cmd := rfl
@[simp] theorem respond_request (st : Status) (res : Word32) (s : State) : (respond st res s).request = none := rfl
@[simp] theorem respond_rsp (st : Status) (res : Word32) (s : State) : (respond st res s).rsp = s.rsp ++ [⟨st, res⟩] := rfl
@[simp] theorem respond_oracle (st : Status) (res : Word32) (s : State) : (respond st res s).oracle = s.oracle := rfl
@[simp] theorem respond_rcreqReady (st : Status) (res : Word32) (s : State) : (respond st res s).rcreqReady = s.rcreqReady := rfl
@[simp] theorem respond_rspReady (st : Status) (res : Word32) (s : State) : (respond st res s).rspReady = s.rspReady := rfl
@[simp] theorem respond_rangeCoder (st : Status) (res : Word32) (s : State) : (respond st res s).rangeCoder = s.rangeCoder := rfl
@[simp] theorem respond_inputs (st : Status) (res : Word32) (s : State) : (respond st res s).inputs = s.inputs := rfl
@[simp] theorem respond_trace (st : Status) (res : Word32) (s : State) : (respond st res s).trace = s.trace := rfl

@[simp] theorem takeCommand_mode (w : Word64) (s : State) : (takeCommand w s).mode = .run := rfl
@[simp] theorem takeCommand_held (w : Word64) (s : State) : (takeCommand w s).held = some w := rfl
@[simp] theorem takeCommand_regs (w : Word64) (s : State) : (takeCommand w s).regs = s.regs := rfl
@[simp] theorem takeCommand_cmd (w : Word64) (s : State) : (takeCommand w s).cmd = s.cmd := rfl
@[simp] theorem takeCommand_request (w : Word64) (s : State) : (takeCommand w s).request = s.request := rfl
@[simp] theorem takeCommand_rsp (w : Word64) (s : State) : (takeCommand w s).rsp = s.rsp := rfl
@[simp] theorem takeCommand_oracle (w : Word64) (s : State) : (takeCommand w s).oracle = s.oracle := rfl
@[simp] theorem takeCommand_rcreqReady (w : Word64) (s : State) : (takeCommand w s).rcreqReady = s.rcreqReady := rfl
@[simp] theorem takeCommand_rspReady (w : Word64) (s : State) : (takeCommand w s).rspReady = s.rspReady := rfl
@[simp] theorem takeCommand_rangeCoder (w : Word64) (s : State) : (takeCommand w s).rangeCoder = s.rangeCoder := rfl
@[simp] theorem takeCommand_inputs (w : Word64) (s : State) : (takeCommand w s).inputs = s.inputs := rfl
@[simp] theorem takeCommand_trace (w : Word64) (s : State) : (takeCommand w s).trace = s.trace ++ [.cmdTaken w] := rfl

@[simp] theorem applyReset_mode (s : State) : (applyReset s).mode = .idle := rfl
@[simp] theorem applyReset_held (s : State) : (applyReset s).held = none := rfl
@[simp] theorem applyReset_regs (s : State) : (applyReset s).regs = Regs.reset := rfl
@[simp] theorem applyReset_cmd (s : State) : (applyReset s).cmd = [] := rfl
@[simp] theorem applyReset_request (s : State) : (applyReset s).request = none := rfl
@[simp] theorem applyReset_rsp (s : State) : (applyReset s).rsp = [] := rfl
@[simp] theorem applyReset_oracle (s : State) : (applyReset s).oracle = [] := rfl
@[simp] theorem applyReset_rcreqReady (s : State) : (applyReset s).rcreqReady = s.rcreqReady := rfl
@[simp] theorem applyReset_rspReady (s : State) : (applyReset s).rspReady = s.rspReady := rfl
@[simp] theorem applyReset_rangeCoder (s : State) : (applyReset s).rangeCoder = s.rangeCoder := rfl
@[simp] theorem applyReset_inputs (s : State) : (applyReset s).inputs = s.inputs := rfl
@[simp] theorem applyReset_trace (s : State) : (applyReset s).trace = s.trace ++ [.reset] := rfl

@[simp] theorem finished_mode (s : State) (r : Regs) (es : List Event) : (finished s r es).mode = .idle := rfl
@[simp] theorem finished_held (s : State) (r : Regs) (es : List Event) : (finished s r es).held = none := rfl
@[simp] theorem finished_regs (s : State) (r : Regs) (es : List Event) : (finished s r es).regs = r := rfl
@[simp] theorem finished_cmd (s : State) (r : Regs) (es : List Event) : (finished s r es).cmd = s.cmd := rfl
@[simp] theorem finished_request (s : State) (r : Regs) (es : List Event) : (finished s r es).request = none := rfl
@[simp] theorem finished_rsp (s : State) (r : Regs) (es : List Event) : (finished s r es).rsp = s.rsp := rfl
@[simp] theorem finished_oracle (s : State) (r : Regs) (es : List Event) : (finished s r es).oracle = s.oracle := rfl
@[simp] theorem finished_rcreqReady (s : State) (r : Regs) (es : List Event) : (finished s r es).rcreqReady = s.rcreqReady := rfl
@[simp] theorem finished_rspReady (s : State) (r : Regs) (es : List Event) : (finished s r es).rspReady = s.rspReady := rfl
@[simp] theorem finished_rangeCoder (s : State) (r : Regs) (es : List Event) : (finished s r es).rangeCoder = s.rangeCoder := rfl
@[simp] theorem finished_inputs (s : State) (r : Regs) (es : List Event) : (finished s r es).inputs = s.inputs := rfl
@[simp] theorem finished_trace (s : State) (r : Regs) (es : List Event) : (finished s r es).trace = s.trace ++ es := rfl

@[simp] theorem hostTakes_mode (s : State) : (hostTakes s).mode = s.mode := by unfold hostTakes; split <;> rfl
@[simp] theorem hostTakes_held (s : State) : (hostTakes s).held = s.held := by unfold hostTakes; split <;> rfl
@[simp] theorem hostTakes_regs (s : State) : (hostTakes s).regs = s.regs := by unfold hostTakes; split <;> rfl
@[simp] theorem hostTakes_cmd (s : State) : (hostTakes s).cmd = s.cmd := by unfold hostTakes; split <;> rfl
@[simp] theorem hostTakes_request (s : State) : (hostTakes s).request = s.request := by unfold hostTakes; split <;> rfl
@[simp] theorem hostTakes_oracle (s : State) : (hostTakes s).oracle = s.oracle := by unfold hostTakes; split <;> rfl
@[simp] theorem hostTakes_rcreqReady (s : State) : (hostTakes s).rcreqReady = s.rcreqReady := by unfold hostTakes; split <;> rfl
@[simp] theorem hostTakes_rspReady (s : State) : (hostTakes s).rspReady = s.rspReady := by unfold hostTakes; split <;> rfl
@[simp] theorem hostTakes_rangeCoder (s : State) : (hostTakes s).rangeCoder = s.rangeCoder := by unfold hostTakes; split <;> rfl
@[simp] theorem hostTakes_inputs (s : State) : (hostTakes s).inputs = s.inputs := by unfold hostTakes; split <;> rfl

/-- A ready host has taken all responses, oldest first. -/
theorem hostTakes_ready {s : State} (h : s.rspReady = true) :
    hostTakes s = { s with rsp := [], trace := s.trace ++ s.rsp.map fun r => .rspTaken (responseWord r) } := by
  simp [hostTakes, h]

theorem hostTakes_unready {s : State} (h : s.rspReady = false) : hostTakes s = s := by
  simp [hostTakes, h]

/-- With nothing to take the host does nothing. -/
theorem hostTakes_prompt {s : State} (h : HostPrompt s) : hostTakes s = s := by
  unfold hostTakes
  split
  · next hr => ext1 <;> simp [h hr]
  · rfl

/-- What the host takes grows the trace at its end. -/
theorem hostTakes_trace_grows (s : State) : ∃ es, (hostTakes s).trace = s.trace ++ es := by
  unfold hostTakes
  split
  · exact ⟨_, rfl⟩
  · exact ⟨[], by simp⟩

end Sys2Proof.Machine
end

