-- ==== Sys2Proof/Laws/Ops.lean ====
section
/-! SUPPORT. What the shared operations do: one transfer at a time (`advance`), and a command from its first offer on (`settle`)
(spec/20_memory.md R29, spec/70_reset_and_hazards.md R106). Later proofs cite these and do not unfold the operations. -/

namespace Sys2Proof.Machine

/-! ## One transfer -/

theorem advance_stopped {s : State} (h : ¬ ContractKept s) : advance s = s := by
  unfold advance
  split
  · exact absurd ‹_› h
  · rfl

theorem advance_request {s : State} {r : Request} (hr : TakesRequests s) (h : s.request = some r) : advance s = requestTaken r s := by
  simp [advance, transfer, hr.1, show s.rangeCoder = .inContract from hr.2, h]

/-- A range coder that has stopped, or that is not ready, leaves a request on offer. -/
theorem advance_untaken {s : State} {r : Request} (hr : ¬ TakesRequests s) (h : s.request = some r) : advance s = s := by
  by_cases hc : ContractKept s
  · have hn : s.rcreqReady = false := by simpa [TakesRequests, hc] using hr
    simp [advance, transfer, hn, show s.rangeCoder = .inContract from hc, h]
  · exact advance_stopped hc

theorem advance_idle {s : State} (h : s.request = none) (hm : s.mode ≠ .waitFm) : advance s = s := by
  unfold advance transfer
  rw [h]
  cases hc : s.rangeCoder <;> cases hs : s.mode <;> simp_all

theorem advance_waiting {s : State} (h : s.request = none) (hm : s.mode = .waitFm) (ho : s.oracle = []) : advance s = s := by
  cases hc : s.rangeCoder <;> simp [advance, transfer, h, hm, ho, hc]

theorem advance_answer {s : State} {fm : Word16} {rest : List Word16} (hc : ContractKept s) (h : s.request = none) (hm : s.mode = .waitFm)
    (ho : s.oracle = fm :: rest) : advance s = answerTaken fm rest s := by
  simp [advance, transfer, show s.rangeCoder = .inContract from hc, h, hm, ho]

/-- Everything one transfer can be: none, because the range coder does not move or nothing is in progress; a request or an answer
taken, with a range coder that has not stopped. -/
theorem advance_cases (s : State) :
    advance s = s ∨
    (∃ r, s.request = some r ∧ TakesRequests s ∧ advance s = requestTaken r s) ∨
    (∃ fm rest, s.request = none ∧ s.mode = .waitFm ∧ s.oracle = fm :: rest ∧ ContractKept s ∧ advance s = answerTaken fm rest s) := by
  rcases ho : s.request with _ | r
  · by_cases hm : s.mode = .waitFm
    · rcases hq : s.oracle with _ | ⟨fm, rest⟩
      · exact .inl (advance_waiting ho hm hq)
      · by_cases hc : ContractKept s
        · exact .inr (.inr ⟨fm, rest, rfl, hm, rfl, hc, advance_answer hc ho hm hq⟩)
        · exact .inl (advance_stopped hc)
    · exact .inl (advance_idle ho hm)
  · by_cases hr : TakesRequests s
    · exact .inr (.inl ⟨r, rfl, hr, advance_request hr ho⟩)
    · exact .inl (advance_untaken hr ho)

/-- No transfer with the range coder looks at the host (R91). -/
theorem advance_rspReady_irrelevant (s : State) (ready : Bool) :
    advance { s with rspReady := ready } = { advance s with rspReady := ready } := by
  obtain ⟨mode, held, regs, cmd, request, rsp, oracle, rcreqReady, rspReady, rangeCoder, inputs, trace⟩ := s
  cases request with
  | some r => cases rangeCoder <;> cases rcreqReady <;> cases r <;> rfl
  | none => cases rangeCoder <;> cases mode <;> cases oracle <;> rfl

/-- A transfer leaves the agents as they are. -/
@[simp] theorem advance_rspReady (s : State) : (advance s).rspReady = s.rspReady := by
  rcases advance_cases s with e | ⟨r, _, _, e⟩ | ⟨fm, rest, _, _, _, _, e⟩ <;> rw [e]
  · cases r <;> rfl
  · rfl

/-- A command runs the same whether the host takes responses or not; the host's taking comes after. -/
theorem settle_hostReady {s : State} (h : s.rspReady = false) :
    settle { s with rspReady := true } = hostTakes { settle s with rspReady := true } := by
  unfold settle
  rw [hostTakes_unready (s := advance (advance (advance s))) (by simp [h]), advance_rspReady_irrelevant s,
    advance_rspReady_irrelevant (advance s), advance_rspReady_irrelevant (advance (advance s))]

/-- A property that every transfer keeps is kept by a whole command. -/
theorem settle_keeps {P : State → Prop} (advanceKeeps : ∀ s, P s → P (advance s)) (takesKeeps : ∀ s, P s → P (hostTakes s)) {s : State}
    (h : P s) : P (settle s) :=
  takesKeeps _ (advanceKeeps _ (advanceKeeps _ (advanceKeeps _ h)))

/-- Where the range coder does not move and the host has nothing to take, the command stays where it is. -/
theorem settle_of_advance_eq {s : State} (h : advance s = s) (hp : HostPrompt s) : settle s = s := by
  simp [settle, h, hostTakes_prompt hp]

/-! ## Whole commands with willing agents -/

theorem advance_respond (st : Status) (res : Word32) (s : State) : advance (respond st res s) = respond st res s :=
  advance_idle rfl (by simp)

/-- A host that takes responses as they come takes the one that is emitted. -/
theorem hostTakes_respond {s : State} {st : Status} {res : Word32} (h : s.rspReady = true) (hn : s.rsp = []) :
    hostTakes (respond st res s) = finished s s.regs [.rspTaken (responseWord ⟨st, res⟩)] := by
  rw [hostTakes_ready (by exact h)]
  ext1 <;> simp [hn]

/-- A command that answers at once. -/
theorem settle_respond {s : State} {st : Status} {res : Word32} (h : s.rspReady = true) (hn : s.rsp = []) :
    settle (respond st res s) = finished s s.regs [.rspTaken (responseWord ⟨st, res⟩)] := by
  simp only [settle, advance_respond, hostTakes_respond h hn]

/-- A command that answers at once, whose response the host does not take. -/
theorem settle_respond_unready {s : State} {st : Status} {res : Word32} (h : s.rspReady = false) :
    settle (respond st res s) = respond st res s := by
  simp only [settle, advance_respond]
  exact hostTakes_unready h

/-- A LAPENC whose request is taken. -/
theorem advance_rcEncode {s : State} {low high total : Int} (h : TakesRequests s) :
    advance (rcEncode low high total s) =
      respond .done 0#32 { s with
        mode := .run
        request := none
        rangeCoder := rangeCoderAfter s.rangeCoder (.encInterval (word16 low) (word16 high) (word16 total))
        trace := s.trace ++ [.rcreqTaken (requestWord (.encInterval (word16 low) (word16 high) (word16 total)))] } := by
  exact advance_request (s := rcEncode low high total s) h rfl

/-- A LAPENC from its request on. -/
theorem settle_rcEncode {s : State} {low high total : Int} (h : Willing s) :
    settle (rcEncode low high total s) =
      { finished s s.regs
          [.rcreqTaken (requestWord (.encInterval (word16 low) (word16 high) (word16 total))), .rspTaken (responseWord ⟨.done, 0#32⟩)] with
        rangeCoder := rangeCoderAfter s.rangeCoder (.encInterval (word16 low) (word16 high) (word16 total)) } := by
  simp only [settle]
  rw [advance_rcEncode h.1, advance_respond, advance_respond, hostTakes_respond (by exact h.2.1) (by exact h.2.2)]
  simp [finished]

/-- A LAPDEC whose update is taken. -/
theorem advance_rcDecodeUpdate {s : State} {low high total : Int} (h : TakesRequests s) :
    advance (rcDecodeUpdate low high total s) =
      respond .done s.regs.val { s with
        mode := .run
        request := none
        rangeCoder := rangeCoderAfter s.rangeCoder (.decUpdate (word16 low) (word16 high) (word16 total))
        trace := s.trace ++ [.rcreqTaken (requestWord (.decUpdate (word16 low) (word16 high) (word16 total)))] } := by
  exact advance_request (s := rcDecodeUpdate low high total s) h rfl

/-- `s` with its query, of `total`, taken and not answered. -/
theorem advance_rcDecodeFreq {s : State} {total : Int} (h : TakesRequests s) :
    advance (rcDecodeFreq total s) =
      { s with
        mode := .waitFm
        request := none
        trace := s.trace ++ [.rcreqTaken (requestWord (.decFreq (word16 total)))] } := by
  rw [advance_request (s := rcDecodeFreq total s) (r := .decFreq (word16 total)) h rfl]
  simp [requestTaken, State.record, rcDecodeFreq, State.offering, rangeCoderAfter, preconditionHolds]

/-- A LAPDEC whose query is taken and not answered. -/
theorem settle_rcDecodeFreq_waits {s : State} {total : Int} (h : TakesRequests s) (hp : HostPrompt s) (ho : s.oracle = []) :
    settle (rcDecodeFreq total s) =
      { s with
        mode := .waitFm
        request := none
        trace := s.trace ++ [.rcreqTaken (requestWord (.decFreq (word16 total)))] } := by
  have hq := advance_waiting (s := advance (rcDecodeFreq total s)) (by rw [advance_rcDecodeFreq h])
    (by rw [advance_rcDecodeFreq h]) (by rw [advance_rcDecodeFreq h]; exact ho)
  simp only [settle, hq]
  rw [advance_rcDecodeFreq h]
  exact hostTakes_prompt hp

/-- A waiting LAPDEC that gets its answer and whose update is taken: it answers. -/
theorem advance_waiting_answered {s : State} {fm : Word16} {rest : List Word16} (h : TakesRequests s) (hn : s.request = none)
    (hm : s.mode = .waitFm) (ho : s.oracle = fm :: rest) :
    advance (advance s) =
      respond .done (decRegs fm s.regs).val { s with
        mode := .run
        request := none
        regs := decRegs fm s.regs
        oracle := rest
        rangeCoder := rangeCoderAfter s.rangeCoder
          (.decUpdate (word16 (decRegs fm s.regs).getFl) (word16 (decRegs fm s.regs).getFh) (word16 Config.ft))
        trace := s.trace ++ [.rcrspTaken fm,
          .rcreqTaken (requestWord (.decUpdate (word16 (decRegs fm s.regs).getFl) (word16 (decRegs fm s.regs).getFh) (word16 Config.ft)))] } := by
  rw [advance_answer h.2 hn hm ho]
  simp only [answerTaken, resumeLapdec]
  rw [advance_rcDecodeUpdate (by exact h)]
  simp [respond, State.record, State.mapRegs]

/-- A LAPDEC whose query and update are taken and whose query is answered: it answers, whatever the host does. -/
theorem advances_rcDecodeFreq {s : State} {total : Int} {fm : Word16} {rest : List Word16} (h : TakesRequests s)
    (ho : s.oracle = fm :: rest) :
    advance (advance (advance (rcDecodeFreq total s))) =
      respond .done (decRegs fm s.regs).val { s with
        mode := .run
        request := none
        regs := decRegs fm s.regs
        oracle := rest
        rangeCoder := rangeCoderAfter s.rangeCoder
          (.decUpdate (word16 (decRegs fm s.regs).getFl) (word16 (decRegs fm s.regs).getFh) (word16 Config.ft))
        trace := s.trace ++ [.rcreqTaken (requestWord (.decFreq (word16 total))), .rcrspTaken fm,
          .rcreqTaken (requestWord (.decUpdate (word16 (decRegs fm s.regs).getFl) (word16 (decRegs fm s.regs).getFh) (word16 Config.ft)))] } := by
  rw [advance_waiting_answered (fm := fm) (rest := rest)] <;> rw [advance_rcDecodeFreq h]
  · simp
  · exact h
  · exact ho

/-- A LAPDEC whose query is answered. -/
theorem settle_rcDecodeFreq_answered {s : State} {total : Int} {fm : Word16} {rest : List Word16} (h : Willing s) (ho : s.oracle = fm :: rest) :
    settle (rcDecodeFreq total s) =
      { finished s (decRegs fm s.regs)
          [.rcreqTaken (requestWord (.decFreq (word16 total))), .rcrspTaken fm,
            .rcreqTaken (requestWord (.decUpdate (word16 (decRegs fm s.regs).getFl) (word16 (decRegs fm s.regs).getFh) (word16 Config.ft))),
            .rspTaken (responseWord ⟨.done, (decRegs fm s.regs).val⟩)] with
        oracle := rest
        rangeCoder := rangeCoderAfter s.rangeCoder
          (.decUpdate (word16 (decRegs fm s.regs).getFl) (word16 (decRegs fm s.regs).getFh) (word16 Config.ft)) } := by
  simp only [settle]
  rw [advances_rcDecodeFreq h.1 ho, hostTakes_respond (by exact h.2.1) (by exact h.2.2)]
  simp [finished]

end Sys2Proof.Machine
end

