-- ==== Sys2Proof/Laws/PerInstr.lean ====
section
/-! SUPPORT. Statements about every command, one lemma for each constructor of `Instr`. -/

/-- The OP field of a command's word is its opcode and the RSV field is zero (spec/30_encoding.md R35, R36, R44). -/
def Sys2Proof.Laws.EncodingFields.Statement (i : Sys2Proof.Instr) : Prop :=
  Sys2Proof.opField (Sys2Proof.encode i) = i.opcode ∧ Sys2Proof.rsvField (Sys2Proof.encode i) = 0#8

theorem Sys2Proof.Laws.EncodingFields.startfreq (decay : Nat) :
    Sys2Proof.Laws.EncodingFields.Statement (.startfreq decay) :=
  ⟨(Sys2Proof.commandWord_fields _ _ _ _).1, (Sys2Proof.commandWord_fields _ _ _ _).2.1⟩

theorem Sys2Proof.Laws.EncodingFields.lapenc (value : Int) (decay : Nat) :
    Sys2Proof.Laws.EncodingFields.Statement (.lapenc value decay) :=
  ⟨(Sys2Proof.commandWord_fields _ _ _ _).1, (Sys2Proof.commandWord_fields _ _ _ _).2.1⟩

theorem Sys2Proof.Laws.EncodingFields.lapdec (decay : Nat) :
    Sys2Proof.Laws.EncodingFields.Statement (.lapdec decay) :=
  ⟨(Sys2Proof.commandWord_fields _ _ _ _).1, (Sys2Proof.commandWord_fields _ _ _ _).2.1⟩
end

