-- ==== Sys2Proof/Laws/Rings.lean ====
section
/-! SUPPORT. Numbers that fit the registers, and the bounds of the start frequency, the shrink step and the rings
(spec/40_start_freq_and_ring_model.md R47 to R54) from which statements about the walks are put together. -/

namespace Sys2Proof.Machine

/-! ## Registers hold what fits them -/

/-- A 32-bit register gives back a value that fits it. -/
theorem sint32_twos32 {v : Int} (lo : -2147483648 ≤ v) (hi : v < 2147483648) : sint32 (twos32 v) = v := by
  simp only [sint32, twos32, BitVec.toInt_ofInt]
  rw [Int.bmod_def]
  omega

/-- A 16-bit field gives back an unsigned value that fits it. -/
theorem toNat_word16 {v : Int} (lo : 0 ≤ v) (hi : v < 65536) : ((word16 v).toNat : Int) = v := by
  simp only [word16, BitVec.toNat_ofInt]
  omega

/-- The contract's check on a decay, as an inequality (R55). -/
theorem decayValid_iff {decay : Nat} : DecayValid decay = true ↔ decay < 16384 :=
  decide_eq_true_iff

/-! ## Start frequency and shrink step -/

theorem startFreq_eq (d : Int) : startFreq d = 32767 * (16384 - d) / (16384 + d) := rfl

/-- `start_freq(d)` is a quotient: what it says of products. -/
theorem startFreq_mul_le {d : Int} (h0 : 0 ≤ d) : startFreq d * (16384 + d) ≤ 32767 * (16384 - d) := by
  rw [startFreq_eq]
  exact Int.ediv_mul_le _ (by omega)

theorem le_startFreq_iff {d q : Int} (h0 : 0 ≤ d) : q ≤ startFreq d ↔ q * (16384 + d) ≤ 32767 * (16384 - d) := by
  rw [startFreq_eq]
  exact Int.le_ediv_iff_mul_le (by omega)

theorem startFreq_pos {d : Int} (h0 : 0 ≤ d) (h1 : d < 16384) : 1 ≤ startFreq d := by
  rw [le_startFreq_iff h0]
  omega

theorem startFreq_le {d : Int} (h0 : 0 ≤ d) : startFreq d ≤ 32767 := by
  by_contra h
  have hq : (32768 : Int) ≤ startFreq d := by omega
  rw [le_startFreq_iff h0] at hq
  omega

theorem shrink_eq (fs d : Int) : shrink fs d = fs * d / 16384 := by
  simp [shrink, asr, Config.qbits, Int.shiftRight_eq_div_pow]

@[simp] theorem shrink_zero_left (d : Int) : shrink 0 d = 0 := by simp [shrink_eq]

theorem shrink_nonneg {fs d : Int} (hf : 0 ≤ fs) (h0 : 0 ≤ d) : 0 ≤ shrink fs d := by
  rw [shrink_eq]
  exact Int.ediv_nonneg (Int.mul_nonneg hf h0) (by omega)

theorem shrink_mul_le (fs d : Int) : shrink fs d * 16384 ≤ fs * d := by
  rw [shrink_eq]
  exact Int.ediv_mul_le _ (by omega)

/-- The floor lowers a positive width by at least 1 (R50). -/
theorem shrink_lt {fs d : Int} (hf : 1 ≤ fs) (h1 : d < 16384) : shrink fs d < fs := by
  have h := shrink_mul_le fs d
  nlinarith

/-! ## Widths and boundaries -/

@[simp] theorem ringWidth_zero (d : Int) : ringWidth d 0 = startFreq d := rfl
theorem ringWidth_succ (d : Int) (k : Nat) : ringWidth d (k + 1) = shrink (ringWidth d k) d := rfl
@[simp] theorem ringBase_zero (d : Int) : ringBase d 0 = 0 := rfl
@[simp] theorem ringBase_one (d : Int) : ringBase d 1 = startFreq d := rfl

theorem ringBase_succ {k : Nat} (d : Int) (hk : 1 ≤ k) : ringBase d (k + 1) = ringBase d k + 2 * ringWidth d k := by
  obtain ⟨j, rfl⟩ : ∃ j, k = j + 1 := ⟨k - 1, by omega⟩
  rfl

theorem ringWidth_nonneg {d : Int} (h0 : 0 ≤ d) (h1 : d < 16384) (k : Nat) : 0 ≤ ringWidth d k := by
  induction k with
  | zero => have := startFreq_pos h0 h1; simp; omega
  | succ k ih => exact shrink_nonneg ih h0

theorem ringWidth_antitone {d : Int} (h0 : 0 ≤ d) (h1 : d < 16384) (k : Nat) : ringWidth d (k + 1) ≤ ringWidth d k := by
  have h := ringWidth_nonneg h0 h1 k
  rcases eq_or_lt_of_le h with hz | hp
  · simp [ringWidth_succ, ← hz]
  · have := shrink_lt (fs := ringWidth d k) (by omega) h1
    rw [ringWidth_succ]; omega

theorem ringWidth_le {d : Int} (h0 : 0 ≤ d) (h1 : d < 16384) (k : Nat) : ringWidth d k ≤ 32767 := by
  induction k with
  | zero => exact startFreq_le h0
  | succ k ih => exact le_trans (ringWidth_antitone h0 h1 k) ih

/-- The boundary of ring `k`, with the geometric tail that is still to come, never exceeds the total: the reason for R54
item 4. -/
theorem ringBase_potential {d : Int} (h0 : 0 ≤ d) (k : Nat) :
    ringBase d (k + 1) * (16384 - d) + 2 * 16384 * ringWidth d (k + 1) ≤ 32767 * (16384 - d) := by
  induction k with
  | zero =>
    have h := shrink_mul_le (startFreq d) d
    have hs := startFreq_mul_le h0
    simp only [zero_add, ringBase_one, ringWidth_succ, ringWidth_zero]
    nlinarith
  | succ k ih =>
    rw [ringBase_succ d (by omega : 1 ≤ k + 1), ringWidth_succ d (k + 1)]
    have h := shrink_mul_le (ringWidth d (k + 1)) d
    nlinarith

theorem ringBase_le {d : Int} (h0 : 0 ≤ d) (h1 : d < 16384) (k : Nat) : ringBase d k ≤ 32767 := by
  cases k with
  | zero => simp
  | succ k =>
    have h := ringBase_potential h0 k
    have hw := ringWidth_nonneg h0 h1 (k + 1)
    by_contra hc
    have : (32768 : Int) ≤ ringBase d (k + 1) := by omega
    nlinarith

theorem ringBase_mono {d : Int} (h0 : 0 ≤ d) (h1 : d < 16384) (k : Nat) : ringBase d k ≤ ringBase d (k + 1) := by
  cases k with
  | zero => have := startFreq_pos h0 h1; simp; omega
  | succ k =>
    have := ringWidth_nonneg h0 h1 (k + 1)
    rw [ringBase_succ d (by omega : 1 ≤ k + 1)]; omega

theorem startFreq_le_ringBase {d : Int} (h0 : 0 ≤ d) (h1 : d < 16384) (k : Nat) : startFreq d ≤ ringBase d (k + 1) := by
  induction k with
  | zero => simp
  | succ k ih => exact le_trans ih (ringBase_mono h0 h1 (k + 1))

/-- With a bound that is large enough, `positiveWidths` counts the widths up to the first zero. -/
theorem positiveWidths_spec {d : Int} (h0 : 0 ≤ d) (h1 : d < 16384) (bound : Nat) (j : Nat) (hb : ringWidth d j ≤ bound) :
    ringWidth d (j + positiveWidths bound (ringWidth d j) d) = 0 ∧
      ∀ k, k < positiveWidths bound (ringWidth d j) d → 1 ≤ ringWidth d (j + k) := by
  induction bound generalizing j with
  | zero =>
    have := ringWidth_nonneg h0 h1 j
    have hz : ringWidth d j = 0 := by push_cast at hb; omega
    simp [positiveWidths, hz]
  | succ n ih =>
    unfold positiveWidths
    have hn := ringWidth_nonneg h0 h1 j
    split
    · next hz => simp [hz]
    · next hz =>
      have hlt := shrink_lt (fs := ringWidth d j) (d := d) (by omega) h1
      have hj := ih (j + 1) (by rw [ringWidth_succ]; push_cast at hb; omega)
      rw [ringWidth_succ] at hj
      refine ⟨by rw [show j + (positiveWidths n (shrink (ringWidth d j) d) d + 1) = j + 1 + positiveWidths n (shrink (ringWidth d j) d) d by omega]; exact hj.1, ?_⟩
      intro k hk
      cases k with
      | zero => simp; omega
      | succ k =>
        have := hj.2 k (by omega)
        rwa [show j + (k + 1) = j + 1 + k by omega]

end Sys2Proof.Machine
end

