-- ==== Sys2Proof/Laws/Walks.lean ====
section
/-! SUPPORT. Which working registers the two walks write (spec/41_encoder.md R58, spec/42_decoder.md R67): every register that is not
named keeps its value. -/

namespace Sys2Proof.Machine

/-! ## The encoder -/

theorem encAdvance_frame (x : Regs) :
    encAdvance x = { x with
      fl := (encAdvance x).fl, fs := (encAdvance x).fs, tl := (encAdvance x).tl, ts := (encAdvance x).ts } := rfl

theorem encRollBack_frame (x : Regs) : encRollBack x = { x with fl := (encRollBack x).fl, fs := (encRollBack x).fs } := rfl

theorem encWalk_frame (n : Nat) (r : Regs) :
    ∃ i fs fl tl ts, encWalk n r = { r with i := i, fs := fs, fl := fl, tl := tl, ts := ts } := by
  induction n generalizing r with
  | zero => exact ⟨_, _, _, _, _, rfl⟩
  | succ n ih =>
    unfold encWalk
    have ha := encAdvance_frame r
    split
    · split
      · have hb := encRollBack_frame (encAdvance r)
        refine ⟨r.i, (encRollBack (encAdvance r)).fs, (encRollBack (encAdvance r)).fl, (encAdvance r).tl, (encAdvance r).ts, ?_⟩
        rw [hb, ha]
      · obtain ⟨i, fs, fl, tl, ts, h⟩ := ih ((encAdvance r).setI (r.getI + 1))
        refine ⟨i, fs, fl, tl, ts, ?_⟩
        rw [h]
        generalize encAdvance r = y at ha ⊢
        rw [ha]
        rfl
    · exact ⟨_, _, _, _, _, rfl⟩

/-! ## The decoder -/

theorem decAdvance_frame (x : Regs) :
    decAdvance x = { x with
      fs := (decAdvance x).fs, fl := (decAdvance x).fl, fh := (decAdvance x).fh, val := (decAdvance x).val } := rfl

theorem decWalk_frame (n : Nat) (r : Regs) :
    ∃ fs fl fh val, decWalk n r = { r with fs := fs, fl := fl, fh := fh, val := val } := by
  induction n generalizing r with
  | zero => exact ⟨_, _, _, _, rfl⟩
  | succ n ih =>
    unfold decWalk
    have ha := decAdvance_frame r
    split
    · obtain ⟨fs, fl, fh, val, h⟩ := ih (decAdvance r)
      refine ⟨fs, fl, fh, val, ?_⟩
      rw [h, ha]
    · exact ⟨_, _, _, _, rfl⟩

end Sys2Proof.Machine
end

