-- ==== Sys2Proof/Tests/Slice0.lean ====
section
/-! SUPPORT. The model's own tests: each expected result is a number of the spec (spec/95_test_vectors.md, spec/30_encoding.md R45), and
each `witness_` theorem shows a concrete input that meets all the hypotheses of the obligation it is named after. -/

namespace Sys2Proof.Tests

open Sys2Proof Sys2Proof.Machine

/-! ## Ill-formed terms are refused, one for each check -/

theorem test_startfreq_decay_too_wide : (Instr.startfreq 65536).WellFormed = false := by decide
theorem test_lapenc_value_too_large : (Instr.lapenc 2147483648 0).WellFormed = false := by decide
theorem test_lapenc_value_too_small : (Instr.lapenc (-2147483649) 0).WellFormed = false := by decide
theorem test_lapenc_decay_too_wide : (Instr.lapenc 0 65536).WellFormed = false := by decide
theorem test_lapdec_decay_too_wide : (Instr.lapdec 65536).WellFormed = false := by decide
theorem test_decay_valid_at_the_edge : DecayValid 16383 = true ∧ DecayValid 16384 = false := by decide

/-! ## Words written out from the spec's encoding -/

/-- OP `0x01`, RSV `0`, DECAY 8192 = `0x2000`; the VALUE field is ignored (spec/95_test_vectors.md section 2). -/
theorem test_decode_startfreq :
    decode 0b00000001_00000000_0010000000000000_11011110101011011011111011101111#64 = .ok (.startfreq 8192) := by decide

/-- OP `0x02`, RSV `0`, DECAY 8192, VALUE -3 (R45). -/
theorem test_decode_lapenc :
    decode 0b00000010_00000000_0010000000000000_11111111111111111111111111111101#64 = .ok (.lapenc (-3) 8192) := by decide

/-- OP `0x03`, RSV `0`, DECAY 16000 = `0x3E80` (spec/95_test_vectors.md section 4). -/
theorem test_decode_lapdec :
    decode 0b00000011_00000000_0011111010000000_00000000000000000000000000000000#64 = .ok (.lapdec 16000) := by decide

/-- The least value (spec/95_test_vectors.md section 3), and a decay that is no valid one but no illegal word either (R40). -/
theorem test_decode_edges :
    decode 0x0200200080000000#64 = .ok (.lapenc (-2147483648) 8192) ∧ decode 0x0100FFFF00000000#64 = .ok (.startfreq 65535) := by
  decide

/-- RSV is looked at first, and every other OP is reserved (R36, R39). -/
theorem test_decode_illegal :
    decode 0x0201200000000000#64 = .error (.reservedFieldSet 0x01#8) ∧ decode 0xFF00000000000000#64 = .error (.reservedOpcode 0xFF#8) ∧
    decode 0x0000000000000000#64 = .error (.reservedOpcode 0x00#8) ∧ decode 0x0400000000000000#64 = .error (.reservedOpcode 0x04#8) := by
  decide

/-- No word is in two rows of the opcode map: the masks agree and the values differ (R36). -/
theorem test_opcode_rows_disjoint : opcodeTable.Pairwise (fun a b => a.mask &&& b.mask &&& (a.value ^^^ b.value) ≠ 0#64) := by decide

/-- A command's word selects the row of its mnemonic and no other. -/
theorem test_opcode_rows_selected :
    ([Instr.startfreq 8192, .lapenc (-3) 8192, .lapdec 8192].map fun i => (opcodeTable.filter (selectsRow (encode i))).map (·.mnemonic)) =
      [[(Instr.startfreq 0).mnemonic], [(Instr.lapenc 0 0).mnemonic], [(Instr.lapdec 0).mnemonic]] := by
  decide

/-- `STARTFREQ 8192` over a byte-wide transport, bits 7:0 first, and one byte short (R31, R34). -/
theorem test_decode_bytes :
    decodeBytes .little [0#8, 0#8, 0#8, 0#8, 0x00#8, 0x20#8, 0x00#8, 0x01#8] = .ok (.startfreq 8192) ∧
    decodeBytes .big [0x01#8, 0x00#8, 0x20#8, 0x00#8, 0#8, 0#8, 0#8, 0#8] = .ok (.startfreq 8192) ∧
    decodeBytes .little [0#8, 0#8, 0#8, 0#8, 0x00#8, 0x20#8, 0x00#8] = .error (.wrongLength 7) := by
  decide

theorem test_decode_table_word :
    decodeTableWord 64 0x02002000FFFFFFFD = some (.lapenc (-3) 8192) ∧ decodeTableWord 64 0x0400000000000000 = none := by decide

/-! ## One step of each command (spec/95_test_vectors.md sections 2 to 4) -/

/-- An idle block with these words on CMD and these answers to come. -/
def offered (cmd : List Word64) (oracle : List Word16) : State := { State.reset with cmd := cmd, oracle := oracle }

/-- The state a step answers, or none. -/
def nextState (o : Host.Outcome State Fault Refusal) : Option State :=
  match o with
  | .next t => some t
  | _ => none

/-- The words transferred by one step from `s`. -/
def stepTrace (s : State) : Option (List Event) := (nextState (step s)).map (·.trace)

theorem test_startfreq_8192 :
    stepTrace (offered [0x0100200000000000#64] []) = some [.cmdTaken 0x0100200000000000#64, .rspTaken 0x0000000000002AAA#64] := by
  decide

theorem test_lapenc_minus_3 :
    stepTrace (offered [0x02002000FFFFFFFD#64] []) =
      some [.cmdTaken 0x02002000FFFFFFFD#64, .rcreqTaken 0x00016FFD75527FFF#64, .rspTaken 0#64] := by
  decide

/-- The least value saturates: `MAG` is `2^31`, and the walk is rolled back. -/
theorem test_lapenc_least_value :
    stepTrace (offered [0x0200200080000000#64] []) =
      some [.cmdTaken 0x0200200080000000#64, .rcreqTaken 0x00017FEF7FF07FFF#64, .rspTaken 0#64] := by
  decide +kernel

theorem test_lapdec_negative_half :
    stepTrace (offered [0x0300200000000000#64] [0x3FFF#16]) =
      some [.cmdTaken 0x0300200000000000#64, .rcreqTaken 0x0002000000007FFF#64, .rcrspTaken 0x3FFF#16,
        .rcreqTaken 0x00033FFF55547FFF#64, .rspTaken 0x00000000FFFFFFFF#64] := by
  decide

/-- An answer out of the range coder's contract: the tail, where the guard fires. -/
theorem test_lapdec_tail :
    stepTrace (offered [0x0300200000000000#64] [0xFFFF#16]) =
      some [.cmdTaken 0x0300200000000000#64, .rcreqTaken 0x0002000000007FFF#64, .rcrspTaken 0xFFFF#16,
        .rcreqTaken 0x00037FEF7FF07FFF#64, .rspTaken 0x00000000FFFFFFF2#64] := by
  decide +kernel

/-- The registers of `LAPENC 3, 1` after the roll-back (spec/95_test_vectors.md section 3). -/
theorem test_lapenc_roll_back :
    (nextState (exec (.lapenc 3 1) State.reset)).map (fun t => (t.regs.getFl, t.regs.getFs, t.regs.getTl, t.regs.getTs, t.regs.getI, t.regs.s)) =
      some (32763, 1, 32763, 1, 1, false) := by
  decide

/-- `LAPENC -1, 0`: the interval that breaks the range coder's precondition and stops it (U2), with a response all the same. -/
theorem test_lapenc_contract_broken :
    (nextState (step (offered [0x02000000FFFFFFFF#64] []))).map (fun t => (t.trace, t.rangeCoder)) =
      some ([.cmdTaken 0x02000000FFFFFFFF#64, .rcreqTaken 0x00017FFFFFFE7FFF#64, .rspTaken 0#64], .encodeIntervalPreconditionViolated) := by
  decide

/-- The first two commands of program 5 of spec/95_test_vectors.md: the second goes on once the range coder is set up anew, and waits in
RUN until then (R95, R106). -/
theorem test_program_5_range_coder_stops :
    let stopped := { offered [0x02003FFFFFFFFFFF#64] [] with rangeCoder := .encodeIntervalPreconditionViolated }
    (nextState (step stopped)).map (fun t => (t.mode, t.trace)) = some (.run, [.cmdTaken 0x02003FFFFFFFFFFF#64]) ∧
    (nextState (step { stopped with inputs := [.rangeCoderRestarted] })).bind stepTrace =
      some [.cmdTaken 0x02003FFFFFFFFFFF#64, .rcreqTaken 0x0001000100027FFF#64, .rspTaken 0#64] := by
  decide

theorem test_decay_out_of_contract :
    step (offered [0x0100400000000000#64] []) = .refused .decayOutOfContract := rfl

/-- Program 6 of spec/95_test_vectors.md: WAIT_FM after the query, and the second word not taken. -/
theorem test_program_6_waits :
    (nextState (step (offered [0x0300200000000000#64, 0x0100200000000000#64] []))).map (fun t => (t.mode, t.cmd, t.trace)) =
      some (.waitFm, [0x0100200000000000#64], [.cmdTaken 0x0300200000000000#64, .rcreqTaken 0x0002000000007FFF#64]) := by
  decide

/-- A host that takes nothing holds nothing up: the second word is taken and answered, and both responses are on RSP (R8, R91). -/
theorem test_host_takes_nothing :
    (nextState (step { offered [0x0200200000000001#64] [] with rspReady := false, rsp := [⟨.illegalCmd, 0#32⟩] })).map
        (fun t => (t.mode, t.held, t.rsp, t.trace)) =
      some (.idle, none, [⟨.illegalCmd, 0#32⟩, ⟨.done, 0#32⟩], [.cmdTaken 0x0200200000000001#64, .rcreqTaken 0x00012AAA3FFF7FFF#64]) := by
  decide

/-- RST empties the four channels (R21). -/
theorem test_rst_empties_channels :
    (nextState (step { offered [0x0100200000000000#64] [7#16] with inputs := [.rst], request := some (.decFreq 0x7FFF#16), rsp := [⟨.done, 0#32⟩] })).map
        (fun t => (t.cmd, t.request, t.rsp, t.oracle, t.mode)) =
      some ([], none, [], [], .idle) := by
  decide

/-- The host's placing of a word: the next step runs it, for every row of the table. -/
theorem test_with_fetch_word :
    stepTrace (State.reset.withFetchWord 64 0x0100200000000000) = some [.cmdTaken 0x0100200000000000#64, .rspTaken 0x0000000000002AAA#64] ∧
    stepTrace (State.reset.withFetchWord 64 0x0200200000000000) =
      some [.cmdTaken 0x0200200000000000#64, .rcreqTaken 0x000100002AAA7FFF#64, .rspTaken 0#64] ∧
    stepTrace (State.reset.withFetchWord 64 0x0300200000000000) =
      some [.cmdTaken 0x0300200000000000#64, .rcreqTaken 0x0002000000007FFF#64] := by
  decide

/-! ## Inputs that meet the hypotheses of the obligations: encoding and rings -/

theorem witness_DecodeOfEncode : (Instr.lapenc (-2147483648) 65535).WellFormed = true := by decide

theorem witness_EncodeOfDecode : decode 0x0300FFFFFFFFFFFF#64 = .ok (.lapdec 65535) := by decide

theorem witness_OpcodeMap :
    0x0100FFFFFFFFFFFF#64 &&& 0xFFFF000000000000#64 = 0x0100000000000000#64 ∧
    0x0200000080000000#64 &&& 0xFFFF000000000000#64 = 0x0200000000000000#64 ∧
    0x0300000000000000#64 &&& 0xFFFF000000000000#64 = 0x0300000000000000#64 ∧
    0x0400000000000000#64 &&& 0xFFFF000000000000#64 ∉ [0x0100000000000000#64, 0x0200000000000000#64, 0x0300000000000000#64] := by
  decide

theorem witness_ValueFieldIgnoredOrUsed :
    ((0x0100200000000000#64).toNat / 2 ^ 32 = (0x01002000FFFFFFFF#64).toNat / 2 ^ 32 ∧ (0x0100200000000000#64).toNat / 2 ^ 56 = 1) ∧
    decode 0x0200200000000000#64 = .ok (.lapenc 0 8192) ∧ (0x0300FFFF00000000#64).toNat / 2 ^ 48 = 0x0300 := by
  decide

theorem witness_SerialisedWordArrives : ([0#8] : List Byte).length ≠ 8 := by decide

/-- Both ends of the valid domain, for every statement whose one hypothesis is a valid decay: StartFreqIsFloor, StartFreqRange,
RingWidthsFallToZero (a ring inside and one past the last), RingCountBounds, RingMassAtMostTotal, StartfreqAnswers. -/
theorem witness_valid_decay :
    0 < 16384 ∧ 16383 < 16384 ∧ (8192 : Nat) ≤ 16383 ∧ 13 < ringCount 8192 ∧ ringCount 8192 ≤ 14 ∧ State.reset.rspReady = true ∧
    State.reset.rsp = [] := by
  decide

theorem witness_ShrinkLowersWidth : (0 : Int) ≤ 0 ∧ (1 : Int) ≤ 1 ∧ (0 : Int) ≤ 16383 ∧ (16383 : Int) < 16384 := by decide

theorem witness_RingsPartition :
    (0 ≤ (32751 : Int) ∧ 32751 < ringMass 8192) ∧ 13 < ringCount 8192 ∧ ringBase 8192 13 ≤ 32751 ∧ 32751 < ringBase 8192 14 := by decide

/-! ## Inputs that meet the hypotheses of the obligations: LAPENC -/

/-- EncoderWalkReachesRing, SignAndMagnitude, LapencEmitsClosedForm, ContractBrokenOnlyAtDecayZero and CommandFrames: the least
value, a valid decay, willing agents; and one value for each row of the closed form. -/
theorem witness_LapencEmitsClosedForm :
    ((-2147483648 : Int) ≤ -2147483648 ∧ (-2147483648 : Int) ≤ 2147483647 ∧ 0 < 16384 ∧ Willing State.reset) ∧
    (min (0 : Int).natAbs (ringCount 8192 - 1) = 0 ∧ min (1 : Int).natAbs (ringCount 0 - 1) = 0) ∧
    (min (-1 : Int).natAbs (ringCount 0 - 1) = 0 ∧ (-1 : Int) < 0) ∧
    (1 ≤ min (14 : Int).natAbs (ringCount 8192 - 1) ∧ (0 : Int) < 14) ∧
    (1 ≤ min (-1 : Int).natAbs (ringCount 8192 - 1) ∧ (-1 : Int) < 0) := by
  refine ⟨⟨by decide, by decide, by decide, ⟨⟨rfl, rfl⟩, rfl, rfl⟩⟩, ?_⟩
  decide

theorem witness_CommandFrames :
    (∃ t, exec (.startfreq 0) State.reset = .next t) ∧ (∃ t, exec (.lapenc (-1) 0) State.reset = .next t) ∧
    (∃ t, exec (.lapdec 0) State.reset = .next t) := ⟨⟨_, rfl⟩, ⟨_, rfl⟩, ⟨_, rfl⟩⟩

theorem witness_LapencSaturates :
    14 ≤ 2147483647 ∧ 8192 < 16384 ∧ Willing State.reset ∧ 2 ≤ ringCount 8192 ∧ ringCount 8192 ≤ 14 :=
  ⟨by decide, by decide, ⟨⟨rfl, rfl⟩, rfl, rfl⟩, by decide, by decide⟩

/-- The one-ring decay 0 and a decay with more rings. -/
theorem witness_SignSymmetry :
    (1 ≤ 1 ∧ 1 ≤ 2147483647 ∧ Willing State.reset) ∧ min 1 (ringCount 0 - 1) = 0 ∧ 1 ≤ min 1 (ringCount 8192 - 1) :=
  ⟨⟨by decide, by decide, ⟨⟨rfl, rfl⟩, rfl, rfl⟩⟩, by decide, by decide⟩

/-- LapencWaitsForRangeCoder and LapdecWaitsForRangeCoder: a range coder that is not ready, and one that has stopped. -/
theorem witness_LapencWaitsForRangeCoder :
    (¬ TakesRequests { State.reset with rcreqReady := false } ∧ HostPrompt { State.reset with rcreqReady := false }) ∧
    (¬ TakesRequests { State.reset with rangeCoder := .encodeIntervalPreconditionViolated } ∧
      HostPrompt { State.reset with rangeCoder := .encodeIntervalPreconditionViolated }) :=
  ⟨⟨fun h => Bool.noConfusion h.1, fun _ => rfl⟩, ⟨fun h => RangeCoder.noConfusion h.2, fun _ => rfl⟩⟩

/-! ## Inputs that meet the hypotheses of the obligations: LAPDEC -/

/-- LapdecClosedForm and LapdecNeverFails; and the positions at the boundaries of the four rows, at decay 8192: the first and the last
of ring 0, of the two halves of the last ring, and of the tail. -/
theorem witness_LapdecClosedForm :
    (8192 < 16384 ∧ Willing (offered [] [0xFFFF#16]) ∧ (offered [] [0xFFFF#16]).oracle = [0xFFFF#16]) ∧
    ((10921 : Int) < startFreq 8192) ∧
    (13 < ringCount 8192 ∧ ringBase 8192 13 ≤ 32750 ∧ 32750 < ringBase 8192 13 + ringWidth 8192 13) ∧
    (ringBase 8192 13 + ringWidth 8192 13 ≤ 32751 ∧ 32751 < ringBase 8192 14) ∧
    (ringMass 8192 ≤ 32752 ∧ ringMass 8192 ≤ 65535) :=
  ⟨⟨by decide, ⟨⟨rfl, rfl⟩, rfl, rfl⟩, rfl⟩, by decide⟩

/-- LapdecWaitsForAnswer and LateAnswerChangesNothing. -/
theorem witness_LapdecWaitsForAnswer :
    16383 < 16384 ∧ Willing State.reset ∧ HostPrompt State.reset ∧ State.reset.oracle = [] ∧ State.reset.inputs = [] :=
  ⟨by decide, ⟨⟨rfl, rfl⟩, rfl, rfl⟩, fun _ => rfl, rfl, rfl⟩

/-- The largest magnitude of decay 8192, and an answer inside its interval. -/
theorem witness_RoundTrip :
    (8192 < 16384 ∧ (-13 : Int).natAbs + 1 ≤ ringCount 8192 ∧ Willing State.reset) ∧
    stepTrace (offered [0x02002000FFFFFFF3#64] []) =
      some [.cmdTaken 0x02002000FFFFFFF3#64, .rcreqTaken (requestWord (.encInterval 32751#16 32752#16 32767#16)), .rspTaken 0#64] ∧
    (32751#16).toNat ≤ (32751#16).toNat ∧ (32751#16).toNat < (32752#16).toNat ∧ Willing (offered [] [32751#16]) :=
  ⟨⟨by decide, by decide, ⟨⟨rfl, rfl⟩, rfl, rfl⟩⟩, by decide +kernel, by decide, by decide, ⟨⟨rfl, rfl⟩, rfl, rfl⟩⟩

theorem witness_SaturatedRoundTrip :
    8192 < 16384 ∧ 2 ≤ ringCount 8192 ∧ ringCount 8192 ≤ (-2147483648 : Int).natAbs ∧ Willing (offered [] [32751#16]) :=
  ⟨by decide, by decide, by decide, ⟨⟨rfl, rfl⟩, rfl, rfl⟩⟩

theorem witness_WalksAgree :
    8192 < 16384 ∧ 1 ≤ 1 ∧ 13 < ringCount 8192 ∧ ringBase 8192 1 ≤ ((10922#16 : Word16).toNat : Int) ∧
    ((21843#16 : Word16).toNat : Int) < ringBase 8192 2 ∧ ringBase 8192 13 ≤ ((32750#16 : Word16).toNat : Int) ∧
    ((32751#16 : Word16).toNat : Int) < ringBase 8192 14 := by
  decide

/-! ## Inputs that meet the hypotheses of the obligations: the step -/

theorem witness_StepRunsDecodedCommand :
    (offered [0x0200200000000001#64] []).mode = .idle ∧ (offered [0x0200200000000001#64] []).inputs = [] ∧
    ({ State.reset with inputs := [.blockMoves] } : State).inputs = .blockMoves :: [] ∧ decode 0x0200200000000001#64 = .ok (.lapenc 1 8192) := by
  decide

/-- A word with RSV not zero whose OP is a command's, and one with OP 4. -/
theorem witness_IllegalWordAnswered :
    (offered [0x02FF000000000000#64] []).rspReady = true ∧ (offered [0x02FF000000000000#64] []).rsp = [] ∧
    ({ offered [0x0400000000000000#64] [] with rspReady := false } : State).rspReady = false ∧ (0x02FF000000000000#64).toNat / 2 ^ 48 % 2 ^ 8 ≠ 0 ∧
    ((0x0400000000000000#64).toNat / 2 ^ 56 ≠ 1 ∧ (0x0400000000000000#64).toNat / 2 ^ 56 ≠ 2 ∧ (0x0400000000000000#64).toNat / 2 ^ 56 ≠ 3) := by
  decide

/-- A LAPDEC of decay 8192 that waits for its answer. -/
def waiting : State :=
  { State.reset with
    mode := .waitFm
    held := some 0x0300200000000000#64
    regs := loadDecay 8192 Regs.reset
    cmd := [0x0100200000000000#64]
    trace := [.cmdTaken 0x0300200000000000#64, .rcreqTaken 0x0002000000007FFF#64] }

theorem witness_NoWordTakenUnlessIdle :
    waiting.mode ≠ .idle ∧ waiting.inputs = [] ∧ ∃ t, step { waiting with oracle := [0x3FFF#16] } = .next t :=
  ⟨by decide, rfl, ⟨_, rfl⟩⟩

/-- A run that is over with a reset still scheduled; and a block that is idle is not over while a word is to come (R107). -/
theorem witness_RunOverStaysOver :
    RunOver { State.reset with inputs := [.rst] } ∧ ¬ RunOver { State.reset with inputs := [.command 0x0100200000000000#64] } :=
  ⟨⟨rfl, rfl, rfl, rfl⟩, fun h => by simp [RunOver, wordsToCome] at h⟩

/-- A LAPDEC whose query the range coder does not take. -/
def requestStalled : State := { waiting with mode := .run, request := some (.decFreq 0x7FFF#16), rcreqReady := false }

theorem witness_StalledBlockWaits :
    (waiting.inputs = [] ∧ HostPrompt waiting ∧ waiting.request = none ∧ waiting.mode = .waitFm ∧ waiting.oracle = []) ∧
    (requestStalled.mode ≠ .idle ∧ HostPrompt requestStalled ∧ requestStalled.request ≠ none ∧ requestStalled.rcreqReady = false) ∧
    ¬ ContractKept { requestStalled with rcreqReady := true, rangeCoder := .encodeIntervalPreconditionViolated } :=
  ⟨⟨rfl, fun _ => rfl, rfl, rfl, rfl⟩, ⟨by decide, fun _ => rfl, by decide, rfl⟩, fun h => RangeCoder.noConfusion h⟩

theorem witness_WaitingChangesNothing :
    State.reset.inputs = [] ∧ State.reset.rsp = [] ∧
      ∃ t, exec (.lapenc 1 8192) { State.reset with rcreqReady := false, rspReady := true } = .next t ∧ t.mode ≠ .idle :=
  ⟨rfl, rfl, _, rfl, by decide⟩

theorem witness_HostIsNeverWaitedFor :
    (Instr.lapdec 16383).decay < 16384 ∧ TakesRequests (offered [] [1#16]) ∧ (offered [] [1#16]).oracle ≠ [] ∧
    ({ offered [] [1#16] with rspReady := false } : State).rspReady = false :=
  ⟨by decide, ⟨rfl, rfl⟩, by decide, rfl⟩

/-- Both cases of `takeResponse`: with a response on RSP and with none. -/
theorem witness_ResponsesTakenInOrder :
    ({ State.reset with rsp := [⟨.illegalCmd, 0#32⟩] } : State).rsp = ⟨.illegalCmd, 0#32⟩ :: [] ∧ State.reset.rsp = [] := by decide

theorem witness_FirstWordAfterRstRunsFirst :
    ({ waiting with inputs := [.rst, .command 0x0200200000000001#64, .answer 0#16] } : State).inputs =
      [.rst, .command 0x0200200000000001#64, .answer 0#16] := rfl

/-- EachStepAnswersOneWord and EveryRunEnds: two words on CMD, one more scheduled, and as many answers; the last word stops the range
coder. -/
theorem witness_EveryRunEnds :
    let s : State := { offered [0x0300200000000000#64, 0x0000000000000000#64] [0xFFFF#16, 0#16, 0#16] with
      inputs := [.command 0x02000000FFFFFFFF#64] }
    let words := s.cmd ++ [0x02000000FFFFFFFF#64]
    s.mode = .idle ∧ s.held = none ∧ s.request = none ∧ s.inputs = [0x02000000FFFFFFFF#64].map Input.command ∧
      ((s.rcreqReady = true ∧ s.rangeCoder = .inContract) ∧ s.rspReady = true ∧ s.rsp = []) ∧ words.length ≤ s.oracle.length ∧ s.oracle ≠ [] ∧
      (words.all fun w => match decode w with | .ok i => i.decay < 16384 | .error _ => true) ∧
      (words.dropLast.all fun w => match decode w with | .ok (.lapenc v d) => d ≠ 0 || 0 ≤ v | _ => true) := by
  decide

theorem witness_TraceOnlyGrows : ∃ t, step { State.reset with inputs := [.rst] } = .next t := ⟨_, rfl⟩

/-- StepKeepsInv and the second half of RangeCoderStanding: a state of the invariant, in contract, whose step breaks the contract. -/
theorem witness_StepKeepsInv :
    Inv (offered [0x02000000FFFFFFFF#64] []) ∧ ContractKept (offered [0x02000000FFFFFFFF#64] []) ∧
      ∃ t, step (offered [0x02000000FFFFFFFF#64] []) = .next t ∧ ¬ ContractKept t :=
  ⟨⟨fun _ => rfl, ⟨.idle, []⟩, rfl, ⟨rfl, rfl, rfl⟩, rfl⟩, rfl, _, rfl, by simp only [ContractKept]; decide⟩

/-- The same for a state of the invariant inside a LAPDEC. -/
theorem witness_StepKeepsInv_waiting : Inv waiting ∧ ∃ t, step waiting = .next t :=
  ⟨⟨fun _ => rfl, ⟨.queried 0x0300200000000000#64, []⟩, by decide, ⟨_, rfl, rfl, rfl, 8192, by decide, by decide, rfl⟩, rfl⟩, ⟨_, rfl⟩⟩

/-- And for one whose host has two responses to take, one of an illegal word. -/
theorem witness_StepKeepsInv_owed :
    Inv { State.reset with
      rspReady := false
      rsp := [⟨.done, 10922#32⟩, ⟨.illegalCmd, 0#32⟩]
      trace := [.cmdTaken 0x0100200000000000#64, .cmdTaken 0x0000000000000000#64] } :=
  ⟨by simp [HostPrompt], ⟨.idle, [0x0100200000000000#64, 0x0000000000000000#64]⟩, by decide, ⟨rfl, rfl, rfl⟩, by decide⟩

/-- RangeCoderStanding and StoppedRangeCoderTransfersNothing: a range coder that has stopped, with a command and a reset to come. -/
theorem witness_RangeCoderStanding :
    let s := { offered [0x0300200000000000#64] [0#16] with rangeCoder := .encodeIntervalPreconditionViolated }
    (¬ ContractKept s ∧ s.inputs.head? ≠ some .rangeCoderRestarted ∧ ∃ t, step s = .next t) ∧
      ∃ t, step { s with inputs := [.rst] } = .next t :=
  ⟨⟨fun h => RangeCoder.noConfusion h, by decide, _, rfl⟩, _, rfl⟩

/-- A reset in WAIT_FM with an answer under way and a word on CMD. -/
theorem witness_RstAbandonsCommand :
    ({ waiting with inputs := [.rst], oracle := [0x3FFF#16] } : State).inputs = [.rst] ∧ waiting.mode = .waitFm ∧ waiting.cmd ≠ [] := by
  decide

end Sys2Proof.Tests
end

/-! # What a step does with its event, and what every command does with its agents

Proofs about the step as a whole: the event it performs, the word it takes, and the command from its first offer to its answer. -/

namespace Sys2Proof.Machine

/-! ## The event a step performs -/

/-- The next scheduled event is performed on the rest of the schedule (log 2). -/
theorem step_scheduled (e : Input) (rest : List Input) (s : State) :
    step { s with inputs := e :: rest } = applyInput e { s with inputs := rest } := rfl

/-- An idle block with nothing scheduled takes the first word of CMD (R29). -/
theorem step_takes_word {s : State} {w : Word64} {rest : List Word64} (hm : s.mode = .idle) (hi : s.inputs = [])
    (hc : s.cmd = w :: rest) : step s = runWord w { s with cmd := rest } := by
  simp [step, nextMove, blockMove, hm, hi, hc]

/-- Settles O48: each of these events is one update of the field of its channel; a host that becomes unready takes nothing. -/
theorem inputsTouchTheirChannel : Obligations.InputsTouchTheirChannel := by
  intro s rest w fm ready
  refine ⟨?command, ?answer, ?rcreqReady, ?rspUnready, ?restarted⟩
  case rspUnready =>
    rw [step_scheduled, applyInput, hostTakes_unready rfl]
  all_goals rw [step_scheduled, applyInput]

/-! ## A word that is no command -/

/-- A word is refused for its RSV field or for its OP field, and for nothing else (R38, R39). -/
theorem decode_error_iff (w : Word64) :
    (∃ e, decode w = .error e) ↔
      rsvField w ≠ 0#8 ∨ (opField w ≠ 0x01#8 ∧ opField w ≠ 0x02#8 ∧ opField w ≠ 0x03#8) := by
  unfold decode
  split_ifs <;> simp_all

/-- The two reasons of R39, as the numbers of the fields. -/
theorem decode_error_of_reserved {w : Word64}
    (h : w.toNat / 2 ^ 48 % 2 ^ 8 ≠ 0 ∨ (w.toNat / 2 ^ 56 ≠ 1 ∧ w.toNat / 2 ^ 56 ≠ 2 ∧ w.toNat / 2 ^ 56 ≠ 3)) :
    ∃ e, decode w = .error e := by
  obtain ⟨hop, hrsv, -, -⟩ := fields_toNat w
  rw [decode_error_iff]
  simpa [BitVec.toNat_eq, hop, hrsv] using h

/-- A word that is no command is taken and answered, and nothing else happens (R39). -/
theorem runWord_illegal {w : Word64} (h : ∃ e, decode w = .error e) (s : State) :
    runWord w s = .next (settle (respond .illegalCmd 0#32 (takeCommand w s))) := by
  obtain ⟨e, he⟩ := h
  simp only [runWord, he, rejectWord]

/-- A command's events come after the event of its word. -/
theorem finished_takeCommand (w : Word64) (s : State) (r : Regs) (es : List Event) :
    finished (takeCommand w s) r es = finished s r (.cmdTaken w :: es) := by
  simp [finished, takeCommand, State.record]

/-- Settles O37: the block takes the word, the decoder refuses it, and the answer is the only thing emitted; then the two hosts. -/
theorem illegalWordAnswered : Obligations.IllegalWordAnswered := by
  intro s w rest hm hi hc hreserved
  have hstep : step s = .next (settle (respond .illegalCmd 0#32 (takeCommand w { s with cmd := rest }))) := by
    rw [step_takes_word hm hi hc, runWord_illegal (decode_error_of_reserved hreserved)]
  constructor
  · intro hready hnone
    rw [hstep, settle_respond (by exact hready) (by exact hnone), takeCommand_regs, finished_takeCommand]
    rfl
  · intro hunready
    rw [hstep, settle_respond_unready (by exact hunready)]
    rfl

/-! ## A command from its first offer to its answer -/

/-- `s` as the command leaves it before the first transfer: STARTFREQ has answered (R56), LAPENC offers its interval (R58), LAPDEC its
query (R67). -/
def started (i : Instr) (s : State) : State :=
  match i with
  | .startfreq decay => respond .done (startfreqRegs decay s.regs).fs (s.mapRegs (startfreqRegs decay))
  | .lapenc value decay =>
    rcEncode (encRegs value decay s.regs).getFl ((encRegs value decay s.regs).getFl + (encRegs value decay s.regs).getFs) Config.ft
      (s.mapRegs (encRegs value decay))
  | .lapdec decay => rcDecodeFreq Config.ft (s.mapRegs (loadDecay decay))

/-- Every command of a valid decay is what it starts with and the transfers that follow. -/
theorem exec_valid {i : Instr} (h : i.decay < 16384) (s : State) : exec i s = .next (settle (started i s)) := by
  cases i <;> exact if_pos (decayValid_iff.mpr h)

/-- Nothing before the first transfer looks at the host (R91). -/
theorem started_rspReady_irrelevant (i : Instr) (s : State) (ready : Bool) :
    started i { s with rspReady := ready } = { started i s with rspReady := ready } := by
  cases i <;> rfl

@[simp] theorem started_rspReady (i : Instr) (s : State) : (started i s).rspReady = s.rspReady := by
  cases i <;> rfl

/-- With a range coder that moves, the three transfers end in an answer DONE, whatever the host does, behind the responses that
stand on RSP (R8, R91, R106). -/
theorem transfers_answer (i : Instr) {s : State} (h : TakesRequests s) (ho : s.oracle ≠ []) :
    ∃ (result : Word32) (u : State),
      advance (advance (advance (started i s))) = respond .done result u ∧ u.rsp = s.rsp := by
  cases i with
  | startfreq decay =>
    simp only [started, advance_respond]
    exact ⟨_, _, rfl, rfl⟩
  | lapenc value decay =>
    simp only [started]
    rw [advance_rcEncode (by exact h), advance_respond, advance_respond]
    exact ⟨_, _, rfl, rfl⟩
  | lapdec decay =>
    obtain ⟨fm, rest, hfm⟩ := List.exists_cons_of_ne_nil ho
    simp only [started]
    rw [advances_rcDecodeFreq (by exact h) (by exact hfm)]
    exact ⟨_, _, rfl, rfl⟩

/-- Settles O51: the transfers end in the answer without the host; its taking is all that a ready host adds. -/
theorem hostIsNeverWaitedFor : Obligations.HostIsNeverWaitedFor := by
  intro i s hd hrc ho hunready
  obtain ⟨result, u, hanswer, hrsp⟩ := transfers_answer i hrc ho
  have hend : settle (started i s) = respond .done result u := by
    rw [settle, hostTakes_unready (by simp [hunready]), hanswer]
  refine ⟨respond .done result u, result, ?answered, rfl, rfl, rfl, ?behind, ?taken⟩
  case answered => rw [exec_valid hd, hend]
  case behind => rw [respond_rsp, hrsp]
  case taken => rw [exec_valid hd, started_rspReady_irrelevant, settle_hostReady (by simp [hunready]), hend]

end Sys2Proof.Machine

/-! # Step 1 of LAPENC and reset, with what the agents and the registers read back -/

namespace Sys2Proof.Machine

/-! ## Reading back what was written -/

@[simp] theorem twos32_sint32 (w : Word32) : twos32 (sint32 w) = w := BitVec.ofInt_toInt

/-- The range coder reads the request that was sent (R42). -/
@[simp] theorem readRequest_requestWord (q : Request) : readRequest (requestWord q) = some q := by
  cases q <;> simp [readRequest, requestWord, rcreqWord_fields]

/-- The host reads the response that was sent (R41). -/
@[simp] theorem readResponse_responseWord (r : Response) : readResponse (responseWord r) = some r := by
  obtain ⟨hresult, hstatus, hzero⟩ := responseWord_fields r
  obtain ⟨status, result⟩ := r
  cases status <;> simp [readResponse, hresult, hstatus, hzero, statusCode]

/-- A DECAY loaded with a valid decay reads as it (R37, R55). -/
theorem getDecay_of_eq {r : Regs} {d : Nat} (hd : d < 16384) (h : r.decay = BitVec.ofNat 16 d) : r.getDecay = d := by
  rw [Regs.getDecay, h, uint16, BitVec.toNat_ofNat, Nat.mod_eq_of_lt (by omega)]

theorem getDecay_loadDecay {d : Nat} (hd : d < 16384) (r : Regs) : (loadDecay d r).getDecay = d :=
  getDecay_of_eq hd rfl

/-! ## Step 1 of LAPENC -/

/-- Settles O19: VALUE holds any 32-bit value as it is, and MAG is wide enough for its absolute value. -/
theorem signAndMagnitude : Obligations.SignAndMagnitude := by
  intro v d r lo hi
  have hvalue : sint32 (twos32 v) = v := sint32_twos32 lo (by omega)
  have hs : (encStart v d r).s = decide (sint32 (twos32 v) < 0) := rfl
  have hmag : (encStart v d r).mag = BitVec.ofNat 32 (sint32 (twos32 v)).natAbs := rfl
  constructor
  · rw [hs, hvalue]
  · rw [hmag, hvalue, BitVec.toNat_ofNat, Nat.mod_eq_of_lt (by omega)]

/-! ## Reset -/

/-- Settles O46: each field of the state after reset, and the move of an idle block with nothing to take. -/
theorem resetLeavesIdle : Obligations.ResetLeavesIdle :=
  ⟨rfl, rfl, rfl, rfl, rfl, rfl, rfl⟩

/-- Settles O49: no event, no command in progress, nothing owed. -/
theorem invAtReset : Obligations.InvAtReset :=
  ⟨fun _ => rfl, ⟨.idle, []⟩, rfl, ⟨rfl, rfl, rfl⟩, rfl⟩

/-- A step with RST scheduled applies it (R96). -/
theorem step_rst {s : State} {rest : List Input} (h : s.inputs = .rst :: rest) :
    step s = .next (applyReset { s with inputs := rest }) := by
  simp [step, nextMove, applyInput, h]

/-- Settles O47: RST is one update of the state, field by field. -/
theorem rstAbandonsCommand : Obligations.RstAbandonsCommand := by
  intro s rest h
  exact ⟨_, step_rst h, rfl, rfl, rfl, rfl, rfl, rfl, rfl, rfl, rfl, rfl, rfl⟩

/-- A run goes on from the state that its first step answers. -/
theorem run_succ {s t : State} (h : step s = .next t) (k : Nat) : Sys2Proof.core.run (k + 1) s = Sys2Proof.core.run k t := by
  have hstep : Sys2Proof.core.step s = .next t := h
  simp only [Host.Core.run, hstep]

/-- Settles O53: RST empties the channels, the word and the answer arrive on them, and the idle block takes the word. -/
theorem firstWordAfterRstRunsFirst : Obligations.FirstWordAfterRstRunsFirst := by
  intro s w fm h
  refine ⟨{ applyReset { s with inputs := [] } with cmd := [w], oracle := [fm] }, ?run, rfl, rfl, step_takes_word rfl rfl rfl⟩
  rw [run_succ (step_rst h)]
  rfl

end Sys2Proof.Machine

/-! # The boundaries in the registers along the two walks

Whatever the value and the answer, the two walks hold a width and a boundary of the ring table (spec/40_start_freq_and_ring_model.md
R51, R52, R57), so that the intervals they end with are not empty (R65, R76). -/

namespace Sys2Proof.Machine

/-! ## Signed registers give back what fits them -/

theorem getFl_setFl {v : Int} (r : Regs) (lo : -2147483648 ≤ v) (hi : v < 2147483648) : (r.setFl v).getFl = v := sint32_twos32 lo hi
theorem getFh_setFh {v : Int} (r : Regs) (lo : -2147483648 ≤ v) (hi : v < 2147483648) : (r.setFh v).getFh = v := sint32_twos32 lo hi

/-! ## The encoder -/

/-- FS and FL of LAPENC in its walk, at ring `k` of decay `d`: the walk starts at `-fs_0` (R60), and ring 0 is entered by the clamp
alone (R62). -/
structure EncAtRing (d k : Nat) (r : Regs) : Prop where
  decay : r.getDecay = d
  width : r.getFs = ringWidth d k
  low : r.getFl = if k = 0 then -startFreq d else ringBase d k
  nonempty : 1 ≤ ringWidth d k

theorem encStart_atRing {d : Nat} (hd : d < 16384) (v : Int) (r : Regs) : EncAtRing d 0 (encStart v d r) := by
  have hpos : 1 ≤ startFreq d := startFreq_pos (by omega) (by omega)
  have hle : startFreq d ≤ 32767 := startFreq_le (by omega)
  have hdecay : (encStart v d r).getDecay = d := getDecay_loadDecay hd r
  have hfs : (encStart v d r).fs = twos32 (startFreq d) := congrArg (fun x => twos32 (startFreq x)) hdecay
  have hwidth : (encStart v d r).getFs = startFreq d := by rw [Regs.getFs, hfs, sint32_twos32 (by omega) (by omega)]
  have hfl : (encStart v d r).fl = twos32 (-(encStart v d r).getFs) := rfl
  refine ⟨hdecay, hwidth, ?low, hpos⟩
  case low => rw [Regs.getFl, hfl, hwidth, sint32_twos32 (by omega) (by omega), if_pos rfl]

/-- One step of the walk goes to the next ring, whose width may be zero (R61). -/
theorem encAdvance_next {d k : Nat} {r : Regs} (hd : d < 16384) (h : EncAtRing d k r) :
    (encAdvance r).getDecay = d ∧ (encAdvance r).getFs = ringWidth d (k + 1) ∧ (encAdvance r).getFl = ringBase d (k + 1) := by
  obtain ⟨hdecay, hwidth, hlow, -⟩ := h
  have hw := ringWidth_nonneg (d := d) (by omega) (by omega) (k + 1)
  have hw' := ringWidth_le (d := d) (by omega) (by omega) (k + 1)
  have hb := ringBase_le (d := d) (by omega) (by omega) (k + 1)
  have hb' := startFreq_le_ringBase (d := d) (by omega) (by omega) k
  have hp := startFreq_pos (d := d) (by omega) (by omega)
  have hfl : (encAdvance r).fl = twos32 (r.getFl + 2 * r.getFs) := rfl
  have hfs : (encAdvance r).fs = twos32 (shrink r.getFs r.getDecay) := rfl
  have hbase : r.getFl + 2 * r.getFs = ringBase d (k + 1) := by
    rw [hwidth, hlow]
    cases k with
    | zero => simp; omega
    | succ k => simp [ringBase_succ]
  refine ⟨hdecay, ?width, ?low⟩
  case width => rw [Regs.getFs, hfs, hwidth, hdecay, ← ringWidth_succ, sint32_twos32 (by omega) (by omega)]
  case low => rw [Regs.getFl, hfl, hbase, sint32_twos32 (by omega) (by omega)]

/-- The roll-back gives FL and FS back as they were when the step began; TL and TS keep the copies (R61 reading (c)). -/
theorem encRollBack_encAdvance (r : Regs) : encRollBack (encAdvance r) = { r with tl := r.fl, ts := r.fs } := by
  ext1 <;> simp [encRollBack, encAdvance, Regs.getTl, Regs.getTs, Regs.getFl, Regs.getFs]

theorem encRollBack_atRing {d k : Nat} {r : Regs} (h : EncAtRing d k r) : EncAtRing d k (encRollBack (encAdvance r)) := by
  rw [encRollBack_encAdvance]
  exact ⟨h.decay, h.width, h.low, h.nonempty⟩

/-- The walk of as many steps as the magnitude asks for is over (R61). -/
theorem encWalk_done {r : Regs} (n : Nat) (hmore : ¬ r.getI < r.getMag) : encWalk (n + 1) r = r := if_neg hmore

/-- A step that reaches a ring of width zero is rolled back, and is the last (R61 reading (c)). -/
theorem encWalk_rolledBack {r : Regs} (n : Nat) (hmore : r.getI < r.getMag) (hzero : (encAdvance r).getFs = 0) :
    encWalk (n + 1) r = encRollBack (encAdvance r) := by
  rw [encWalk, if_pos hmore, if_pos hzero]

/-- A step that reaches another ring of non-zero width (R61). -/
theorem encWalk_goesOn {r : Regs} (n : Nat) (hmore : r.getI < r.getMag) (hpositive : (encAdvance r).getFs ≠ 0) :
    encWalk (n + 1) r = encWalk n ((encAdvance r).setI (r.getI + 1)) := by
  rw [encWalk, if_pos hmore, if_neg hpositive]

/-- Wherever the walk ends, it is at a ring of non-zero width (R61). -/
theorem encWalk_atRing {d : Nat} (hd : d < 16384) (n : Nat) {k : Nat} {r : Regs} (h : EncAtRing d k r) :
    ∃ m, EncAtRing d m (encWalk n r) := by
  induction n generalizing k r with
  | zero => exact ⟨k, h⟩
  | succ n ih =>
    by_cases hmore : r.getI < r.getMag
    · by_cases hzero : (encAdvance r).getFs = 0
      · rw [encWalk_rolledBack n hmore hzero]
        exact ⟨k, encRollBack_atRing h⟩
      · rw [encWalk_goesOn n hmore hzero]
        obtain ⟨hdecay, hwidth, hlow⟩ := encAdvance_next hd h
        have hnonneg := ringWidth_nonneg (d := d) (by omega) (by omega) (k + 1)
        exact ih (k := k + 1) ⟨hdecay, hwidth, hlow, by omega⟩
    · rw [encWalk_done n hmore]
      exact ⟨k, h⟩

/-- The clamp leaves the boundary of the ring in FL, 0 for ring 0 (R62). -/
theorem encClamp_getFl {d k : Nat} {r : Regs} (hd : d < 16384) (h : EncAtRing d k r) : (encClamp r).getFl = ringBase d k := by
  have hlow := h.low
  have hpos := startFreq_pos (d := d) (by omega) (by omega)
  unfold encClamp
  cases k with
  | zero =>
    rw [if_pos rfl] at hlow
    rw [if_pos (by omega)]
    exact getFl_setFl r (by omega) (by omega)
  | succ k =>
    have hbase := startFreq_le_ringBase (d := d) (by omega) (by omega) k
    rw [if_neg (by omega)] at hlow
    rw [if_neg (by omega), hlow]

@[simp] theorem encClamp_fs (r : Regs) : (encClamp r).fs = r.fs := by unfold encClamp; split <;> rfl

/-- LAPENC's interval is not empty and fits its 16-bit fields, also where it passes the total (R66 items 3 and 5). -/
theorem encRegs_interval {d : Nat} (hd : d < 16384) (v : Int) (r : Regs) :
    0 ≤ (encRegs v d r).getFl ∧ 1 ≤ (encRegs v d r).getFs ∧ (encRegs v d r).getFl + (encRegs v d r).getFs < 65536 := by
  obtain ⟨k, hring⟩ := encWalk_atRing hd Config.walkBound (encStart_atRing hd v r)
  unfold encRegs
  generalize encWalk Config.walkBound (encStart v d r) = x at hring
  have hfl := encClamp_getFl hd hring
  have hfs : (encClamp x).getFs = ringWidth d k := by rw [Regs.getFs, encClamp_fs]; exact hring.width
  have hpos := hring.nonempty
  have hwidth := ringWidth_le (d := d) (by omega) (by omega) k
  have hbase := ringBase_le (d := d) (by omega) (by omega) k
  have hnonneg : 0 ≤ ringBase d k := by
    cases k with
    | zero => simp
    | succ k =>
      have := startFreq_le_ringBase (d := d) (by omega) (by omega) k
      have := startFreq_pos (d := d) (by omega) (by omega)
      omega
  have hupper : ringBase d k + 2 * ringWidth d k < 65536 := by
    cases k with
    | zero => simp at hwidth ⊢; omega
    | succ k =>
      have := ringBase_le (d := d) (by omega) (by omega) (k + 1 + 1)
      rw [ringBase_succ _ (by omega)] at this
      omega
  unfold shiftBySign
  split
  case isTrue =>
    have hs : ((encClamp x).setFl ((encClamp x).getFl + (encClamp x).getFs)).getFs = ringWidth d k := hfs
    rw [hs, getFl_setFl _ (by omega) (by omega)]
    omega
  case isFalse => omega

/-! ## The decoder -/

/-- FS, FL and FH of LAPDEC in its walk, at ring `k` of decay `d`, whose width may be zero (R70). -/
structure DecAtRing (d k : Nat) (r : Regs) : Prop where
  decay : r.getDecay = d
  width : r.getFs = ringWidth d k
  low : r.getFl = ringBase d k
  high : r.getFh = ringBase d (k + 1)

theorem decStart_atRing {d : Nat} {r : Regs} (hd : d < 16384) (fm : Word16) (h : r.getDecay = d) : DecAtRing d 0 (decStart fm r) := by
  have hpos : 1 ≤ startFreq d := startFreq_pos (by omega) (by omega)
  have hle : startFreq d ≤ 32767 := startFreq_le (by omega)
  have hfs : (decStart fm r).fs = twos32 (startFreq d) := congrArg (fun x => twos32 (startFreq x)) h
  have hfh : (decStart fm r).fh = twos32 (decStart fm r).getFs := rfl
  have hwidth : (decStart fm r).getFs = startFreq d := by rw [Regs.getFs, hfs, sint32_twos32 (by omega) (by omega)]
  refine ⟨h, hwidth, rfl, ?high⟩
  case high => rw [Regs.getFh, hfh, hwidth, sint32_twos32 (by omega) (by omega), ringBase_one]

theorem decAdvance_atRing {d k : Nat} {r : Regs} (hd : d < 16384) (h : DecAtRing d k r) : DecAtRing d (k + 1) (decAdvance r) := by
  obtain ⟨hdecay, hwidth, -, hhigh⟩ := h
  have hw := ringWidth_nonneg (d := d) (by omega) (by omega) (k + 1)
  have hw' := ringWidth_le (d := d) (by omega) (by omega) (k + 1)
  have hb := ringBase_le (d := d) (by omega) (by omega) (k + 1 + 1)
  have hb' := ringBase_succ d (show 1 ≤ k + 1 by omega)
  have hp := startFreq_le_ringBase (d := d) (by omega) (by omega) k
  have hs := startFreq_pos (d := d) (by omega) (by omega)
  have hfl : (decAdvance r).fl = twos32 r.getFh := rfl
  have hfs : (decAdvance r).fs = twos32 (shrink r.getFs r.getDecay) := rfl
  have hfh : (decAdvance r).fh = twos32 (r.getFh + 2 * (decAdvance r).getFs) := rfl
  have hwidth' : (decAdvance r).getFs = ringWidth d (k + 1) := by
    rw [Regs.getFs, hfs, hwidth, hdecay, ← ringWidth_succ, sint32_twos32 (by omega) (by omega)]
  refine ⟨hdecay, hwidth', ?low, ?high⟩
  case low => rw [Regs.getFl, hfl, hhigh, sint32_twos32 (by omega) (by omega)]
  case high => rw [Regs.getFh, hfh, hhigh, hwidth', sint32_twos32 (by omega) (by omega), hb']

theorem decWalk_atRing {d : Nat} (hd : d < 16384) (n : Nat) {k : Nat} {r : Regs} (h : DecAtRing d k r) :
    ∃ m, DecAtRing d m (decWalk n r) := by
  induction n generalizing k r with
  | zero => exact ⟨k, h⟩
  | succ n ih =>
    unfold decWalk
    split
    case isTrue => exact ih (decAdvance_atRing hd h)
    case isFalse => exact ⟨k, h⟩

/-- Step 3 leaves a part of the ring: all of ring 0, one half of any other (R71). -/
theorem decSign_bounds {d k : Nat} {r : Regs} (hd : d < 16384) (h : DecAtRing d k r) :
    0 ≤ (decSign r).getFl ∧ (decSign r).getFl ≤ (decSign r).getFh ∧ 1 ≤ (decSign r).getFh ∧ (decSign r).getFh ≤ 32767 := by
  obtain ⟨-, hwidth, hlow, hhigh⟩ := h
  have hw := ringWidth_nonneg (d := d) (by omega) (by omega) k
  have hb := ringBase_le (d := d) (by omega) (by omega) (k + 1)
  have hs := startFreq_pos (d := d) (by omega) (by omega)
  have hs' := startFreq_le_ringBase (d := d) (by omega) (by omega) k
  unfold decSign
  cases k with
  | zero =>
    simp only [ringBase_zero] at hlow
    rw [if_neg (by omega)]
    omega
  | succ k =>
    have hp := startFreq_le_ringBase (d := d) (by omega) (by omega) k
    have hsucc := ringBase_succ d (show 1 ≤ k + 1 by omega)
    rw [if_pos (by omega)]
    split
    case isTrue =>
      have hfh : ((r.setVal (-r.getVal)).setFl (r.getFl + r.getFs)).getFh = r.getFh := rfl
      rw [hfh, getFl_setFl _ (by omega) (by omega)]
      omega
    case isFalse =>
      have hfl : (r.setFh (r.getFh - r.getFs)).getFl = r.getFl := rfl
      rw [hfl, getFh_setFh _ (by omega) (by omega)]
      omega

/-- LAPDEC's update is not empty and inside the total, whatever the answer was (R76): the guard opens an empty interval (R72). -/
theorem decRegs_interval {d : Nat} {r : Regs} (hd : d < 16384) (fm : Word16) (h : r.getDecay = d) :
    0 ≤ (decRegs fm r).getFl ∧ (decRegs fm r).getFl < (decRegs fm r).getFh ∧ (decRegs fm r).getFh ≤ 32767 := by
  obtain ⟨k, hring⟩ := decWalk_atRing hd Config.walkBound (decStart_atRing hd fm h)
  have hbounds := decSign_bounds hd hring
  unfold decRegs decWalked decGuard
  generalize decSign (decWalk Config.walkBound (decStart fm r)) = x at hbounds
  split
  case isTrue =>
    have hfh : (x.setFl (x.getFl - 1)).getFh = x.getFh := rfl
    rw [hfh, getFl_setFl _ (by omega) (by omega)]
    omega
  case isFalse => omega

end Sys2Proof.Machine

/-! # Every step keeps the invariant

One transfer at a time: what each event does to the progress of the protocol, and that the block makes only the transfers the
protocol allows next (spec/20_memory.md R29, spec/10_state.md R11). -/

namespace Sys2Proof.Machine

/-! ## The protocol, event by event -/

theorem progressOfTrace_concat (trace : List Event) (e : Event) :
    progressOfTrace (trace ++ [e]) = (progressOfTrace trace).bind (progressAfter · e) := by
  simp [progressOfTrace]

/-- One more event of a trace that has come to `p`. -/
theorem progressOfTrace_next {trace : List Event} {p : Progress} (h : progressOfTrace trace = some p) (e : Event) :
    progressOfTrace (trace ++ [e]) = progressAfter p e := by
  rw [progressOfTrace_concat, h, Option.bind_some]

@[simp] theorem progressAfter_rcreqTaken (p : Progress) (q : Request) :
    progressAfter p (.rcreqTaken (requestWord q)) = progressAfterRequest p q := by
  simp [progressAfter]

@[simp] theorem progressAfter_rspTaken (p : Progress) (r : Response) :
    progressAfter p (.rspTaken (responseWord r)) = progressAfterResponse p r := by
  simp [progressAfter]

/-- The host takes the response of the oldest command that is over (R23). -/
theorem progressAfterResponse_oldest {phase : Phase} {w : Word64} {owed : List Word64} {r : Response} (h : responseFits w r = true) :
    progressAfterResponse ⟨phase, w :: owed⟩ r = some ⟨phase, owed⟩ := by
  simp [progressAfterResponse, h]

/-- Responses on RSP are owed one by one: the oldest word is that of the oldest response. -/
theorem responsesFit_cons {owed : List Word64} {r : Response} {rsp : List Response} (h : responsesFit owed (r :: rsp) = true) :
    ∃ w rest, owed = w :: rest ∧ responseFits w r = true ∧ responsesFit rest rsp = true := by
  cases owed with
  | nil => simp [responsesFit] at h
  | cons w rest => exact ⟨w, rest, rfl, by simpa [responsesFit] using h⟩

theorem responsesFit_nil {owed : List Word64} (h : responsesFit owed [] = true) : owed = [] := by
  cases owed with
  | nil => rfl
  | cons w rest => simp [responsesFit] at h

/-- A new response stands behind the others, as its word does (R23). -/
theorem responsesFit_concat {owed : List Word64} {rsp : List Response} {w : Word64} {r : Response} (h : responsesFit owed rsp = true)
    (hr : responseFits w r = true) : responsesFit (owed ++ [w]) (rsp ++ [r]) = true := by
  induction rsp generalizing owed with
  | nil => simpa [responsesFit_nil h, responsesFit] using hr
  | cons r' rsp ih =>
    obtain ⟨w', rest, rfl, hw', hrest⟩ := responsesFit_cons h
    simp [responsesFit, hw', ih hrest]

/-! ## The block at a point of the protocol -/

/-- What the invariant says of the block and its channels at the point `p` of the protocol, the host aside. -/
structure Follows (s : State) (p : Progress) : Prop where
  trace : progressOfTrace s.trace = some p
  mode : ModeFits s p.phase
  rsp : responsesFit p.owed s.rsp = true

theorem inv_iff_follows (s : State) : Inv s ↔ HostPrompt s ∧ ∃ p, Follows s p :=
  and_congr_right fun _ => exists_congr fun _ => ⟨fun ⟨t, m, r⟩ => ⟨t, m, r⟩, fun ⟨t, m, r⟩ => ⟨t, m, r⟩⟩

/-- In IDLE nothing is in progress (R11). -/
theorem modeFits_idle {s : State} {phase : Phase} (h : ModeFits s phase) (hm : s.mode = .idle) :
    phase = .idle ∧ s.held = none ∧ s.request = none := by
  simpa [ModeFits, hm] using h

/-- A request is on offer in RUN alone (R11, R29). -/
theorem modeFits_request {s : State} {phase : Phase} {q : Request} (h : ModeFits s phase) (hq : s.request = some q) :
    ∃ w, s.held = some w ∧ RequestFits w s.regs phase q := by
  unfold ModeFits at h
  split at h
  case h_1 => simp [hq] at h
  case h_2 => obtain ⟨w, -, -, hnone, -⟩ := h; simp [hq] at hnone
  case h_3 =>
    obtain ⟨w, q', hw, hq', hfits⟩ := h
    obtain rfl : q = q' := Option.some.inj (hq.symm.trans hq')
    exact ⟨w, hw, hfits⟩

/-- In WAIT_FM a LAPDEC's query waits for its answer (R68). -/
theorem modeFits_waitFm {s : State} {phase : Phase} (h : ModeFits s phase) (hm : s.mode = .waitFm) :
    ∃ w, s.held = some w ∧ phase = .queried w ∧ s.request = none ∧ HoldsLapdec w s.regs := by
  simpa [ModeFits, hm] using h

/-- The response that ends the command word `w` (R8, R29 (c)). -/
theorem follows_respond {s : State} {p : Progress} {w : Word64} {status : Status} {result : Word32}
    (ht : progressOfTrace s.trace = some (p.over w)) (hr : responsesFit p.owed s.rsp = true)
    (hw : responseFits w ⟨status, result⟩ = true) : Follows (respond status result s) (p.over w) :=
  ⟨ht, ⟨rfl, rfl, rfl⟩, responsesFit_concat hr hw⟩

/-! ## One transfer with the range coder -/

/-- An interval that may be the first request is that of a LAPENC, whose response is DONE, 0 (R64). -/
theorem responseFits_of_encInterval {w : Word64} {low high total : Word16} (h : firstRequestFits w (.encInterval low high total) = true) :
    responseFits w ⟨.done, 0#32⟩ = true := by
  unfold firstRequestFits at h
  split at h
  case h_1 value decay _ _ _ hw _ => simp [responseFits, hw]
  all_goals simp_all

/-- Any result may answer a LAPDEC (R73). -/
theorem responseFits_of_holdsLapdec {w : Word64} {r : Regs} (h : HoldsLapdec w r) (result : Word32) :
    responseFits w ⟨.done, result⟩ = true := by
  obtain ⟨decay, hw, -, -⟩ := h
  simp [responseFits, hw]

/-- The range coder takes the request on offer. -/
theorem requestTaken_follows {s : State} {p : Progress} {q : Request} (h : Follows s p) (hq : s.request = some q) :
    ∃ p', Follows (requestTaken q s) p' := by
  obtain ⟨phase, owed⟩ := p
  obtain ⟨htrace, hmode, hrsp⟩ := h
  obtain ⟨w, hheld, hfits⟩ := modeFits_request hmode hq
  have hnext := progressOfTrace_next htrace (.rcreqTaken (requestWord q))
  rw [progressAfter_rcreqTaken] at hnext
  cases q with
  | encInterval low high total =>
    obtain ⟨rfl, hfirst⟩ := hfits
    simp only [progressAfterRequest, hfirst, if_true] at hnext
    exact ⟨_, follows_respond hnext hrsp (responseFits_of_encInterval hfirst)⟩
  | decFreq total =>
    obtain ⟨rfl, hfirst, hlapdec⟩ := hfits
    simp only [progressAfterRequest, hfirst, if_true] at hnext
    exact ⟨_, hnext, ⟨w, hheld, rfl, rfl, hlapdec⟩, hrsp⟩
  | decUpdate low high total =>
    obtain ⟨rfl, hupdate, hlapdec⟩ := hfits
    simp only [progressAfterRequest, hupdate, if_true] at hnext
    exact ⟨_, follows_respond hnext hrsp (responseFits_of_holdsLapdec hlapdec _)⟩

/-- The 16-bit fields of an interval that fits them keep its order. -/
theorem word16_lt {low high : Int} (h0 : 0 ≤ low) (h : low < high) (h1 : high < 65536) : (word16 low).toNat < (word16 high).toNat := by
  have hlow := toNat_word16 h0 (by omega)
  have hhigh := toNat_word16 (by omega : 0 ≤ high) h1
  omega

/-- The registers that LAPDEC writes once its query is answered (R67). -/
theorem decRegs_frame (fm : Word16) (r : Regs) :
    ∃ fs fl fh m val, decRegs fm r = { r with fs := fs, fl := fl, fh := fh, fm := m, val := val } := by
  have hguard (x : Regs) : decGuard x = { x with fl := (decGuard x).fl } := by unfold decGuard; split <;> rfl
  have hsign (x : Regs) : decSign x = { x with fl := (decSign x).fl, fh := (decSign x).fh, val := (decSign x).val } := by
    unfold decSign; split_ifs <;> rfl
  obtain ⟨fs, fl, fh, val, hwalk⟩ := decWalk_frame Config.walkBound (decStart fm r)
  rw [decRegs, hguard, hsign, decWalked, hwalk]
  exact ⟨_, _, _, _, _, rfl⟩

/-- Steps 1 to 4 of LAPDEC leave DECAY alone. -/
@[simp] theorem decRegs_decay (fm : Word16) (r : Regs) : (decRegs fm r).decay = r.decay := by
  obtain ⟨fs, fl, fh, m, val, h⟩ := decRegs_frame fm r
  rw [h]

/-- The update that LAPDEC computes is one the protocol allows (R76). -/
theorem decRegs_updateFits {r : Regs} {d : Nat} (hd : d < 16384) (h : r.getDecay = d) (fm : Word16) :
    updateFits (.decUpdate (word16 (decRegs fm r).getFl) (word16 (decRegs fm r).getFh) (word16 Config.ft)) = true := by
  obtain ⟨hlow, hlt, hhigh⟩ := decRegs_interval hd fm h
  have hword := word16_lt hlow hlt (by omega)
  have htop := toNat_word16 (by omega : 0 ≤ (decRegs fm r).getFh) (by omega)
  simp only [updateFits, Bool.and_eq_true, decide_eq_true_eq]
  exact ⟨⟨hword, by omega⟩, rfl⟩

/-- The block takes the answer to its query. -/
theorem answerTaken_follows {s : State} {p : Progress} {fm : Word16} (rest : List Word16) (h : Follows s p) (hm : s.mode = .waitFm) :
    ∃ p', Follows (answerTaken fm rest s) p' := by
  obtain ⟨phase, owed⟩ := p
  obtain ⟨htrace, hmode, hrsp⟩ := h
  obtain ⟨w, hheld, rfl, -, d, hw, hvalid, hdecay⟩ := modeFits_waitFm hmode hm
  have hd := decayValid_iff.mp hvalid
  have hlapdec : HoldsLapdec w (decRegs fm s.regs) := ⟨d, hw, hvalid, by rw [decRegs_decay, hdecay]⟩
  have hupdate := decRegs_updateFits hd (getDecay_of_eq hd hdecay) fm
  exact ⟨_, progressOfTrace_next htrace (.rcrspTaken fm), ⟨w, _, hheld, rfl, rfl, hupdate, hlapdec⟩, hrsp⟩

/-- Whatever the next transfer is, the protocol allows it. -/
theorem advance_follows {s : State} (h : ∃ p, Follows s p) : ∃ p, Follows (advance s) p := by
  obtain ⟨p, hp⟩ := h
  rcases advance_cases s with e | ⟨q, hq, -, e⟩ | ⟨fm, rest, -, hm, -, -, e⟩ <;> rw [e]
  · exact ⟨p, hp⟩
  · exact requestTaken_follows hp hq
  · exact answerTaken_follows rest hp hm

/-! ## The host's taking of responses -/

/-- The host takes the oldest response. -/
theorem takeOldest_follows {s : State} {p : Progress} (h : Follows s p) : ∃ p', Follows (takeOldest s) p' := by
  obtain ⟨phase, owed⟩ := p
  obtain ⟨htrace, hmode, hrsp⟩ := h
  unfold takeOldest
  split
  case h_1 r rest hs =>
    rw [hs] at hrsp
    obtain ⟨w, owed, rfl, hw, hrest⟩ := responsesFit_cons hrsp
    have hnext := progressOfTrace_next htrace (.rspTaken (responseWord r))
    rw [progressAfter_rspTaken, progressAfterResponse_oldest hw] at hnext
    exact ⟨_, hnext, hmode, hrest⟩
  case h_2 => exact ⟨_, htrace, hmode, hrsp⟩

/-- Responses taken one after the other, oldest first, leave none owed. -/
theorem progressOfTrace_responses {trace : List Event} {phase : Phase} {owed : List Word64} {rsp : List Response}
    (ht : progressOfTrace trace = some ⟨phase, owed⟩) (hr : responsesFit owed rsp = true) :
    progressOfTrace (trace ++ rsp.map fun r => .rspTaken (responseWord r)) = some ⟨phase, []⟩ := by
  induction rsp generalizing trace owed with
  | nil => simpa [responsesFit_nil hr] using ht
  | cons r rsp ih =>
    obtain ⟨w, rest, rfl, hw, hrest⟩ := responsesFit_cons hr
    have hnext := progressOfTrace_next ht (.rspTaken (responseWord r))
    rw [progressAfter_rspTaken, progressAfterResponse_oldest hw] at hnext
    simpa using ih hnext hrest

theorem hostTakes_follows {s : State} (h : ∃ p, Follows s p) : ∃ p, Follows (hostTakes s) p := by
  obtain ⟨⟨phase, owed⟩, htrace, hmode, hrsp⟩ := h
  unfold hostTakes
  split
  · exact ⟨⟨phase, []⟩, progressOfTrace_responses htrace hrsp, hmode, rfl⟩
  · exact ⟨_, htrace, hmode, hrsp⟩

/-- A ready host has nothing left to take. -/
theorem hostPrompt_hostTakes (s : State) : HostPrompt (hostTakes s) := by
  unfold hostTakes
  split
  · exact fun _ => rfl
  · next h => exact fun hready => absurd hready h

theorem inv_hostTakes {s : State} (h : ∃ p, Follows s p) : Inv (hostTakes s) :=
  (inv_iff_follows _).mpr ⟨hostPrompt_hostTakes s, hostTakes_follows h⟩

/-- A command that goes on keeps to the protocol to its end, and a ready host takes its answer. -/
theorem inv_settle {s : State} (h : ∃ p, Follows s p) : Inv (settle s) :=
  inv_hostTakes (advance_follows (advance_follows (advance_follows h)))

/-! ## A word taken from CMD -/

/-- A word that is answered at once: its command is over as it is taken. -/
theorem progressOfTrace_atOnce {s : State} {p : Progress} {w : Word64} (h : Follows s p) (hm : s.mode = .idle)
    (hw : answersAtOnce w = true) : progressOfTrace (takeCommand w s).trace = some (p.over w) := by
  obtain ⟨hphase, -, -⟩ := modeFits_idle h.mode hm
  rw [takeCommand_trace, progressOfTrace_next h.trace]
  simp [progressAfter, progressAfterCommand, hphase, hw]

/-- A word whose command makes a request: it is in progress. -/
theorem progressOfTrace_commanded {s : State} {p : Progress} {w : Word64} (h : Follows s p) (hm : s.mode = .idle)
    (hw : answersAtOnce w = false) : progressOfTrace (takeCommand w s).trace = some ⟨.commanded w, p.owed⟩ := by
  obtain ⟨hphase, -, -⟩ := modeFits_idle h.mode hm
  rw [takeCommand_trace, progressOfTrace_next h.trace]
  simp [progressAfter, progressAfterCommand, hphase, hw]

/-- Each command begins as its word lets it (R56, R58, R67). -/
theorem started_follows {s : State} {p : Progress} {w : Word64} {i : Instr} (h : Follows s p) (hm : s.mode = .idle)
    (hw : decode w = .ok i) (hd : i.decay < 16384) : ∃ p', Follows (started i (takeCommand w s)) p' := by
  cases i with
  | startfreq d =>
    have hatOnce : answersAtOnce w = true := by simp [answersAtOnce, hw]
    have hfs : (startfreqRegs d s.regs).fs = twos32 (startFreq d) := congrArg (fun x => twos32 (startFreq x)) (getDecay_loadDecay hd s.regs)
    have hresult : responseFits w ⟨.done, (startfreqRegs d s.regs).fs⟩ = true := by simp [responseFits, hw, hfs]
    exact ⟨_, follows_respond (progressOfTrace_atOnce h hm hatOnce) h.rsp hresult⟩
  | lapenc v d =>
    have hatOnce : answersAtOnce w = false := by simp [answersAtOnce, hw]
    obtain ⟨hlow, hwidth, hhigh⟩ := encRegs_interval (d := d) hd v s.regs
    have hword := word16_lt hlow (by omega) hhigh
    have hfirst : firstRequestFits w (.encInterval (word16 (encRegs v d s.regs).getFl)
        (word16 ((encRegs v d s.regs).getFl + (encRegs v d s.regs).getFs)) (word16 Config.ft)) = true := by
      simp only [firstRequestFits, hw, hword, decide_true, Bool.true_and]
      rfl
    exact ⟨_, progressOfTrace_commanded h hm hatOnce, ⟨w, _, rfl, rfl, rfl, hfirst⟩, h.rsp⟩
  | lapdec d =>
    have hatOnce : answersAtOnce w = false := by simp [answersAtOnce, hw]
    have hfirst : firstRequestFits w (.decFreq (word16 Config.ft)) = true := by
      simp only [firstRequestFits, hw]
      rfl
    have hlapdec : HoldsLapdec w (loadDecay d s.regs) := ⟨d, hw, decayValid_iff.mpr hd, rfl⟩
    exact ⟨_, progressOfTrace_commanded h hm hatOnce, ⟨w, _, rfl, rfl, rfl, hfirst, hlapdec⟩, h.rsp⟩

/-- A command is refused unless its decay is valid (R55). -/
theorem exec_invalid {i : Instr} (h : ¬ i.decay < 16384) (s : State) : exec i s = .refused .decayOutOfContract := by
  have hd : ¬ DecayValid i.decay = true := fun hv => h (decayValid_iff.mp hv)
  cases i <;> exact if_neg hd

/-- A command that has a meaning has a valid decay, and is what it starts with and the transfers that follow. -/
theorem exec_next {i : Instr} {s t : State} (h : exec i s = .next t) : i.decay < 16384 ∧ t = settle (started i s) := by
  by_cases hd : i.decay < 16384
  · rw [exec_valid hd] at h
    exact ⟨hd, (Host.Outcome.next.inj h).symm⟩
  · rw [exec_invalid hd] at h
    cases h

/-- A word taken in IDLE, legal or not. -/
theorem inv_runWord {s t : State} {p : Progress} {w : Word64} (h : Follows s p) (hm : s.mode = .idle) (ht : runWord w s = .next t) :
    Inv t := by
  cases hw : decode w with
  | ok i =>
    simp only [runWord, hw] at ht
    obtain ⟨hd, rfl⟩ := exec_next ht
    exact inv_settle (started_follows h hm hw hd)
  | error e =>
    rw [runWord_illegal ⟨e, hw⟩] at ht
    cases ht
    have hatOnce : answersAtOnce w = true := by simp [answersAtOnce, hw]
    have hresult : responseFits w ⟨.illegalCmd, 0#32⟩ = true := by simp [responseFits, hw]
    exact inv_settle ⟨_, follows_respond (progressOfTrace_atOnce h hm hatOnce) h.rsp hresult⟩

/-! ## The step -/

theorem inv_blockMove {s t : State} (h : Inv s) (ht : blockMove s = .next t) : Inv t := by
  obtain ⟨-, p, hp⟩ := (inv_iff_follows s).mp h
  unfold blockMove at ht
  split at ht
  case h_1 hm =>
    split at ht
    case h_1 w rest _ => exact inv_runWord (s := { s with cmd := rest }) (p := p) ⟨hp.trace, hp.mode, hp.rsp⟩ hm ht
    case h_2 => cases ht; exact inv_hostTakes ⟨p, hp⟩
  case h_2 => cases ht; exact inv_settle ⟨p, hp⟩

/-- Whatever arrives, the invariant is kept. -/
theorem inv_applyInput {s t : State} {e : Input} (h : Inv s) (ht : applyInput e s = .next t) : Inv t := by
  obtain ⟨hprompt, p, hp⟩ := (inv_iff_follows s).mp h
  cases e with
  | blockMoves => exact inv_blockMove h ht
  | rst =>
    cases ht
    have hnext := progressOfTrace_next hp.trace .reset
    exact ⟨fun _ => rfl, ⟨.idle, []⟩, hnext, ⟨rfl, rfl, rfl⟩, rfl⟩
  | command w => cases ht; exact h
  | answer fm => cases ht; exact h
  | rcreqReady ready => cases ht; exact h
  | rspReady ready => cases ht; exact inv_hostTakes ⟨p, hp.trace, hp.mode, hp.rsp⟩
  | takeResponse =>
    cases ht
    have hprompt' : HostPrompt (takeOldest s) := by
      unfold takeOldest
      split
      case h_1 r rest hs => exact fun hready => by simp [hprompt hready] at hs
      case h_2 => exact hprompt
    exact (inv_iff_follows _).mpr ⟨hprompt', takeOldest_follows hp⟩
  | rangeCoderRestarted => cases ht; exact h

/-- Settles O50: the next scheduled event keeps the invariant, and so does a move of the block. -/
theorem stepKeepsInv : Obligations.StepKeepsInv := by
  intro s t h ht
  unfold step nextMove at ht
  split at ht
  case h_1 => exact inv_blockMove h ht
  case h_2 e rest _ => exact inv_applyInput (s := { s with inputs := rest }) h ht

end Sys2Proof.Machine

/-! # What a command leaves unchanged, and what its result does not depend on -/

namespace Sys2Proof.Machine

/-! ## How each command ends

The states a command can reach, whatever the agents do; the host's taking comes after. -/

/-- A LAPENC ends with its request taken and its answer emitted, or waits with the request on offer. -/
theorem advances_rcEncode_cases (low high total : Int) (s : State) :
    advance (advance (advance (rcEncode low high total s))) = rcEncode low high total s ∨
    ∃ (rc : RangeCoder) (trace : List Event),
      advance (advance (advance (rcEncode low high total s))) = respond .done 0#32 { s with rangeCoder := rc, trace := trace } := by
  by_cases h : TakesRequests s
  · right
    rw [advance_rcEncode h, advance_respond, advance_respond]
    exact ⟨_, _, rfl⟩
  · left
    have hwaits : advance (rcEncode low high total s) = rcEncode low high total s := advance_untaken h rfl
    simp only [hwaits]

/-- A LAPDEC ends answered, or waits with its query on offer or for its answer. -/
theorem advances_rcDecodeFreq_cases (total : Int) (s : State) :
    advance (advance (advance (rcDecodeFreq total s))) = rcDecodeFreq total s ∨
    (∃ trace : List Event,
      advance (advance (advance (rcDecodeFreq total s))) = { s with mode := .waitFm, request := none, trace := trace }) ∨
    ∃ (fm : Word16) (rest : List Word16) (trace : List Event), s.oracle = fm :: rest ∧
      advance (advance (advance (rcDecodeFreq total s))) = respond .done (decRegs fm s.regs).val { s with
        regs := decRegs fm s.regs
        oracle := rest
        rangeCoder := rangeCoderAfter s.rangeCoder
          (.decUpdate (word16 (decRegs fm s.regs).getFl) (word16 (decRegs fm s.regs).getFh) (word16 Config.ft))
        trace := trace } := by
  by_cases h : TakesRequests s
  · right
    by_cases ho : s.oracle = []
    · left
      have hwaits := advance_waiting (s := advance (rcDecodeFreq total s)) (by rw [advance_rcDecodeFreq h]) (by rw [advance_rcDecodeFreq h])
        (by rw [advance_rcDecodeFreq h]; exact ho)
      simp only [hwaits]
      exact ⟨_, advance_rcDecodeFreq h⟩
    · right
      obtain ⟨fm, rest, hfm⟩ := List.exists_cons_of_ne_nil ho
      rw [advances_rcDecodeFreq h hfm]
      exact ⟨fm, rest, _, hfm, rfl⟩
  · left
    have hwaits : advance (rcDecodeFreq total s) = rcDecodeFreq total s := advance_untaken h rfl
    simp only [hwaits]

/-! ## What each command writes -/

/-- The registers that LAPENC writes (R58). -/
theorem encRegs_frame (v : Int) (d : Nat) (r : Regs) :
    ∃ decay value s mag i fs fl tl ts, encRegs v d r = { r with
      decay := decay, value := value, s := s, mag := mag, i := i, fs := fs, fl := fl, tl := tl, ts := ts } := by
  have hshift (x : Regs) : shiftBySign x = { x with fl := (shiftBySign x).fl } := by unfold shiftBySign; split <;> rfl
  have hclamp (x : Regs) : encClamp x = { x with fl := (encClamp x).fl } := by unfold encClamp; split <;> rfl
  obtain ⟨i, fs, fl, tl, ts, hwalk⟩ := encWalk_frame Config.walkBound (encStart v d r)
  rw [encRegs, hshift, hclamp, hwalk]
  exact ⟨_, _, _, _, _, _, _, _, _, rfl⟩

/-- An update the protocol allows keeps the range coder's precondition (R26). -/
theorem preconditionHolds_of_updateFits {q : Request} (h : updateFits q = true) : preconditionHolds q = true := by
  cases q with
  | decUpdate low high total =>
    simp only [updateFits, Bool.and_eq_true, decide_eq_true_eq, beq_iff_eq] at h
    obtain ⟨⟨hlt, hle⟩, rfl⟩ := h
    exact (preconditionHolds_decUpdate low high _).mpr ⟨hlt, hle⟩
  | encInterval low high total => simp [updateFits] at h
  | decFreq total => rfl

/-- What every command leaves unchanged, before the host takes its answer: the agents and what they offer, the responses already on RSP,
and the held word unless the command is over. -/
structure LeavesRest (s u : State) : Prop where
  cmd : u.cmd = s.cmd
  inputs : u.inputs = s.inputs
  rcreqReady : u.rcreqReady = s.rcreqReady
  rspReady : u.rspReady = s.rspReady
  held : u.held = s.held ∨ (u.held = none ∧ u.mode = .idle)
  rsp : u.rsp = s.rsp ∨ ∃ answer, u.rsp = s.rsp ++ [answer]

/-- A command that has answered. -/
theorem leavesRest_respond (s : State) (status : Status) (result : Word32) (regs : Regs) (oracle : List Word16) (rc : RangeCoder)
    (trace : List Event) :
    LeavesRest s (respond status result { s with regs := regs, oracle := oracle, rangeCoder := rc, trace := trace }) :=
  ⟨rfl, rfl, rfl, rfl, .inr ⟨rfl, rfl⟩, .inr ⟨_, rfl⟩⟩

/-- A command that waits. -/
theorem leavesRest_waiting (s : State) (mode : Mode) (request : Option Request) (regs : Regs) (trace : List Event) :
    LeavesRest s { s with mode := mode, request := request, regs := regs, trace := trace } :=
  ⟨rfl, rfl, rfl, rfl, .inl rfl, .inl rfl⟩

theorem leavesRest_transfers (i : Instr) (s : State) : LeavesRest s (advance (advance (advance (started i s)))) := by
  cases i with
  | startfreq d =>
    simp only [started, advance_respond]
    exact leavesRest_respond ..
  | lapenc v d =>
    simp only [started]
    rcases advances_rcEncode_cases _ _ _ (s.mapRegs (encRegs v d)) with e | ⟨rc, trace, e⟩ <;> rw [e]
    · exact leavesRest_waiting s .run _ _ s.trace
    · exact leavesRest_respond s _ _ _ s.oracle ..
  | lapdec d =>
    simp only [started]
    rcases advances_rcDecodeFreq_cases _ (s.mapRegs (loadDecay d)) with e | ⟨trace, e⟩ | ⟨fm, rest, trace, -, e⟩ <;> rw [e]
    · exact leavesRest_waiting s .run _ _ s.trace
    · exact leavesRest_waiting ..
    · exact leavesRest_respond ..

/-- STARTFREQ writes DECAY and FS (R56). -/
theorem startfreq_writes (d : Nat) (s : State) :
    let u := advance (advance (advance (started (.startfreq d) s)))
    u.regs = { s.regs with decay := u.regs.decay, fs := u.regs.fs } ∧ u.oracle = s.oracle ∧ u.rangeCoder = s.rangeCoder := by
  simp only [started, advance_respond]
  exact ⟨rfl, rfl, rfl⟩

/-- LAPENC takes no answer (R58). -/
theorem lapenc_writes (v : Int) (d : Nat) (s : State) :
    let u := advance (advance (advance (started (.lapenc v d) s)))
    u.regs = encRegs v d s.regs ∧ u.oracle = s.oracle := by
  simp only [started]
  rcases advances_rcEncode_cases _ _ _ (s.mapRegs (encRegs v d)) with e | ⟨rc, trace, e⟩ <;> rw [e] <;> exact ⟨rfl, rfl⟩

/-- LAPDEC writes DECAY, and the registers of its walk with the one answer it takes; it never stops the range coder (R67, R76). -/
theorem lapdec_writes {d : Nat} (hd : d < 16384) (s : State) :
    let u := advance (advance (advance (started (.lapdec d) s)))
    ((u.regs = loadDecay d s.regs ∧ u.oracle = s.oracle) ∨ ∃ fm, u.regs = decRegs fm (loadDecay d s.regs) ∧ s.oracle = fm :: u.oracle) ∧
      u.rangeCoder = s.rangeCoder := by
  simp only [started]
  rcases advances_rcDecodeFreq_cases _ (s.mapRegs (loadDecay d)) with e | ⟨trace, e⟩ | ⟨fm, rest, trace, ho, e⟩ <;> rw [e]
  · exact ⟨.inl ⟨rfl, rfl⟩, rfl⟩
  · exact ⟨.inl ⟨rfl, rfl⟩, rfl⟩
  · have hupdate := decRegs_updateFits hd (getDecay_loadDecay hd s.regs) fm
    have hkept := rangeCoderAfter_kept (rc := s.rangeCoder) (preconditionHolds_of_updateFits hupdate)
    simp only [State.mapRegs_regs, State.mapRegs_rangeCoder, hkept]
    exact ⟨.inr ⟨fm, rfl, ho⟩, rfl⟩

/-- The host takes all responses or none. -/
theorem hostTakes_rsp (s : State) : (hostTakes s).rsp = [] ∨ (hostTakes s).rsp = s.rsp := by
  unfold hostTakes
  split
  · exact .inl rfl
  · exact .inr rfl

/-- Settles O34: what all commands leave, then what each of them writes; the host's taking touches RSP and the trace alone. -/
theorem commandFrames : Obligations.CommandFrames := by
  intro i s t h
  obtain ⟨hd, rfl⟩ := exec_next h
  obtain ⟨hcmd, hinputs, hrcreq, hrspReady, hheld, hrsp⟩ := leavesRest_transfers i s
  have htaken := hostTakes_rsp (advance (advance (advance (started i s))))
  refine ⟨?cmd, ?inputs, ?rcreqReady, ?rspReady, ?held, ?rsp, ?writes⟩ <;> simp only [settle, hostTakes_cmd, hostTakes_inputs,
    hostTakes_rcreqReady, hostTakes_rspReady, hostTakes_held, hostTakes_mode, hostTakes_regs, hostTakes_oracle, hostTakes_rangeCoder]
  case cmd => exact hcmd
  case inputs => exact hinputs
  case rcreqReady => exact hrcreq
  case rspReady => exact hrspReady
  case held => exact hheld
  case rsp => exact htaken.imp_right fun e => by rwa [e]
  case writes =>
    cases i with
    | startfreq d => exact startfreq_writes d s
    | lapenc v d =>
      obtain ⟨hregs, horacle⟩ := lapenc_writes v d s
      obtain ⟨_, _, _, _, _, _, _, _, _, hframe⟩ := encRegs_frame v d s.regs
      exact ⟨by rw [hregs, hframe], horacle⟩
    | lapdec d =>
      obtain ⟨hends, hrc⟩ := lapdec_writes (d := d) hd s
      rcases hends with ⟨hregs, horacle⟩ | ⟨fm, hregs, horacle⟩
      · exact ⟨by rw [hregs]; rfl, .inl horacle, hrc⟩
      · obtain ⟨_, _, _, _, _, hframe⟩ := decRegs_frame fm (loadDecay d s.regs)
        exact ⟨by rw [hregs, hframe]; rfl, .inr ⟨fm, horacle⟩, hrc⟩

/-! ## Results do not depend on the registers a command finds -/

/-- `r` with the registers of `x` where LAPENC does not read them, or writes them first (R19). -/
def Regs.encUnreadFrom (r x : Regs) : Regs := { r with fh := x.fh, fm := x.fm, val := x.val, tl := x.tl, ts := x.ts }

/-- `r` with the registers of `x` where LAPDEC, once answered, does not touch them. -/
def Regs.decUnreadFrom (r x : Regs) : Regs :=
  { r with value := x.value, s := x.s, mag := x.mag, i := x.i, tl := x.tl, ts := x.ts }

@[simp] theorem Regs.encUnreadFrom_getFs (r x : Regs) : (r.encUnreadFrom x).getFs = r.getFs := rfl
@[simp] theorem Regs.encUnreadFrom_getFl (r x : Regs) : (r.encUnreadFrom x).getFl = r.getFl := rfl

@[simp] theorem Regs.decUnreadFrom_getFl (r x : Regs) : (r.decUnreadFrom x).getFl = r.getFl := rfl
@[simp] theorem Regs.decUnreadFrom_getFh (r x : Regs) : (r.decUnreadFrom x).getFh = r.getFh := rfl
@[simp] theorem Regs.decUnreadFrom_val (r x : Regs) : (r.decUnreadFrom x).val = r.val := rfl

theorem encStart_unread (v : Int) (d : Nat) (r x : Regs) : encStart v d x = (encStart v d r).encUnreadFrom x := rfl

theorem encAdvance_unread (r x : Regs) :
    encAdvance (r.encUnreadFrom x) = (encAdvance r).encUnreadFrom { x with tl := twos32 r.getFl, ts := twos32 r.getFs } := rfl

/-- TL and TS are written before the roll-back reads them (R61). -/
theorem encWalk_unread (n : Nat) (r x : Regs) : ∃ y, encWalk n (r.encUnreadFrom x) = (encWalk n r).encUnreadFrom y := by
  induction n generalizing r x with
  | zero => exact ⟨x, rfl⟩
  | succ n ih =>
    by_cases hmore : r.getI < r.getMag
    · by_cases hzero : (encAdvance r).getFs = 0
      · rw [encWalk_rolledBack (r := r.encUnreadFrom x) n hmore hzero, encWalk_rolledBack n hmore hzero, encRollBack_encAdvance,
          encRollBack_encAdvance]
        exact ⟨{ x with tl := r.fl, ts := r.fs }, rfl⟩
      · rw [encWalk_goesOn (r := r.encUnreadFrom x) n hmore hzero, encWalk_goesOn n hmore hzero, encAdvance_unread]
        exact ih ((encAdvance r).setI (r.getI + 1)) _
    · rw [encWalk_done (r := r.encUnreadFrom x) n hmore, encWalk_done n hmore]
      exact ⟨x, rfl⟩

theorem encClamp_unread (r x : Regs) : encClamp (r.encUnreadFrom x) = (encClamp r).encUnreadFrom x := by
  simp only [encClamp, apply_ite (Regs.encUnreadFrom · x)]
  rfl

theorem shiftBySign_unread (r x : Regs) : shiftBySign (r.encUnreadFrom x) = (shiftBySign r).encUnreadFrom x := by
  simp only [shiftBySign, apply_ite (Regs.encUnreadFrom · x)]
  rfl

/-- What LAPENC leaves in the registers it reads depends on none of those it finds (R58). -/
theorem encRegs_unread (v : Int) (d : Nat) (r x : Regs) : ∃ y, encRegs v d x = (encRegs v d r).encUnreadFrom y := by
  obtain ⟨y, hwalk⟩ := encWalk_unread Config.walkBound (encStart v d r) x
  exact ⟨y, by rw [encRegs, encStart_unread v d r x, hwalk, encClamp_unread, shiftBySign_unread, encRegs]⟩

theorem decStart_unread {r x : Regs} (h : x.decay = r.decay) (fm : Word16) : decStart fm x = (decStart fm r).decUnreadFrom x := by
  have hx : x = { x with decay := r.decay } := by rw [← h]
  rw [hx]
  rfl

theorem decAdvance_unread (r x : Regs) : decAdvance (r.decUnreadFrom x) = (decAdvance r).decUnreadFrom x := rfl

theorem decWalk_unread (n : Nat) (r x : Regs) : decWalk n (r.decUnreadFrom x) = (decWalk n r).decUnreadFrom x := by
  induction n generalizing r with
  | zero => rfl
  | succ n ih =>
    simp only [decWalk, decAdvance_unread, ih, apply_ite (Regs.decUnreadFrom · x)]
    rfl

theorem decSign_unread (r x : Regs) : decSign (r.decUnreadFrom x) = (decSign r).decUnreadFrom x := by
  simp only [decSign, apply_ite (Regs.decUnreadFrom · x)]
  rfl

theorem decGuard_unread (r x : Regs) : decGuard (r.decUnreadFrom x) = (decGuard r).decUnreadFrom x := by
  simp only [decGuard, apply_ite (Regs.decUnreadFrom · x)]
  rfl

/-- Of the registers it finds, what LAPDEC computes from its answer depends on DECAY alone (R67). -/
theorem decRegs_unread {r x : Regs} (h : x.decay = r.decay) (fm : Word16) : decRegs fm x = (decRegs fm r).decUnreadFrom x := by
  rw [decRegs, decWalked, decStart_unread h, decWalk_unread, decSign_unread, decGuard_unread, decRegs, decWalked]

/-- `t` is `s` but for working registers that nothing reads any more: a command in progress reads DECAY when its query is answered, and
VAL when its update is taken (R67). -/
def SameButRegs (s t : State) : Prop :=
  ∃ r : Regs, t = { s with regs := r } ∧ r.decay = s.regs.decay ∧
    ∀ low high total : Word16, s.request = some (.decUpdate low high total) → r.val = s.regs.val

theorem requestTaken_sameButRegs {s t : State} {q : Request} (h : SameButRegs s t) (hq : s.request = some q) :
    SameButRegs (requestTaken q s) (requestTaken q t) := by
  obtain ⟨r, rfl, hdecay, hval⟩ := h
  cases q with
  | encInterval low high total => exact ⟨r, rfl, hdecay, fun _ _ _ hnone => by cases hnone⟩
  | decFreq total => exact ⟨r, rfl, hdecay, fun _ _ _ hnone => by cases hnone⟩
  | decUpdate low high total =>
    refine ⟨r, ?_, hdecay, fun _ _ _ hnone => by cases hnone⟩
    simp only [requestTaken, State.record, hval low high total hq]
    rfl

theorem answerTaken_sameButRegs {s t : State} (fm : Word16) (rest : List Word16) (h : SameButRegs s t) :
    SameButRegs (answerTaken fm rest s) (answerTaken fm rest t) := by
  obtain ⟨r, rfl, hdecay, -⟩ := h
  have hregs := decRegs_unread hdecay fm
  have hfl : (decRegs fm r).getFl = (decRegs fm s.regs).getFl := by rw [hregs, Regs.decUnreadFrom_getFl]
  have hfh : (decRegs fm r).getFh = (decRegs fm s.regs).getFh := by rw [hregs, Regs.decUnreadFrom_getFh]
  have hval : (decRegs fm r).val = (decRegs fm s.regs).val := by rw [hregs, Regs.decUnreadFrom_val]
  refine ⟨decRegs fm r, ?_, ?_, fun _ _ _ _ => hval⟩
  · simp only [answerTaken, resumeLapdec, State.mapRegs, State.record, hfl, hfh]
    rfl
  · simpa [answerTaken, resumeLapdec, rcDecodeUpdate] using hdecay

/-- A transfer is made, or not, whatever the registers hold (R10). -/
theorem advance_sameButRegs {s t : State} (h : SameButRegs s t) : SameButRegs (advance s) (advance t) := by
  have ⟨r, ht, _⟩ := h
  have hrequest : t.request = s.request := by rw [ht]
  have hmode : t.mode = s.mode := by rw [ht]
  have horacle : t.oracle = s.oracle := by rw [ht]
  have htakes : TakesRequests t ↔ TakesRequests s := by rw [ht]; exact Iff.rfl
  have hkept : ContractKept t ↔ ContractKept s := by rw [ht]; exact Iff.rfl
  rcases hq : s.request with _ | q
  · by_cases hm : s.mode = .waitFm
    · rcases ho : s.oracle with _ | ⟨fm, rest⟩
      · rwa [advance_waiting hq hm ho, advance_waiting (hrequest.trans hq) (hmode.trans hm) (horacle.trans ho)]
      · by_cases hc : ContractKept s
        · rw [advance_answer hc hq hm ho, advance_answer (hkept.mpr hc) (hrequest.trans hq) (hmode.trans hm) (horacle.trans ho)]
          exact answerTaken_sameButRegs fm rest h
        · rwa [advance_stopped hc, advance_stopped (mt hkept.mp hc)]
    · rwa [advance_idle hq hm, advance_idle (hrequest.trans hq) (hmode ▸ hm)]
  · by_cases hr : TakesRequests s
    · rw [advance_request hr hq, advance_request (htakes.mpr hr) (hrequest.trans hq)]
      exact requestTaken_sameButRegs h hq
    · rwa [advance_untaken hr hq, advance_untaken (mt htakes.mp hr) (hrequest.trans hq)]

/-- The host's taking looks at no register. -/
theorem hostTakes_sameButRegs {s t : State} (h : SameButRegs s t) : SameButRegs (hostTakes s) (hostTakes t) := by
  obtain ⟨r, rfl, hagree⟩ := h
  refine ⟨r, ?_, by simpa using hagree⟩
  unfold hostTakes
  split <;> rfl

theorem settle_sameButRegs {s t : State} (h : SameButRegs s t) : SameButRegs (settle s) (settle t) :=
  hostTakes_sameButRegs (advance_sameButRegs (advance_sameButRegs (advance_sameButRegs h)))

/-- Every command begins by writing what it reads (R19). -/
theorem started_sameButRegs (i : Instr) (s : State) (r : Regs) : SameButRegs (started i s) (started i { s with regs := r }) := by
  cases i with
  | startfreq d => exact ⟨startfreqRegs d r, rfl, rfl, fun _ _ _ hnone => by cases hnone⟩
  | lapenc v d =>
    obtain ⟨y, hregs⟩ := encRegs_unread v d s.regs r
    refine ⟨encRegs v d r, ?_, by rw [hregs]; rfl, fun _ _ _ hnone => by cases hnone⟩
    simp only [started, hregs, Regs.encUnreadFrom_getFl, Regs.encUnreadFrom_getFs]
    simp only [State.mapRegs, hregs]
    rfl
  | lapdec d => exact ⟨loadDecay d r, rfl, rfl, fun _ _ _ hnone => by cases hnone⟩

/-- Settles O33: a command begins alike in both states, and its transfers keep them alike; one of no valid decay is refused in both. -/
theorem registersDoNotMatter : Obligations.RegistersDoNotMatter := by
  intro i s r
  by_cases hd : i.decay < 16384
  · left
    obtain ⟨r', hsame, -⟩ := settle_sameButRegs (started_sameButRegs i s r)
    exact ⟨settle (started i s), r', exec_valid hd s, by rw [exec_valid hd, hsame]⟩
  · right
    exact ⟨_, exec_invalid hd s, exec_invalid hd _⟩

end Sys2Proof.Machine

/-! # The words on the channels: how they are carried, when they are transferred, and how a command waits for its transfers

Proofs about the interface (spec/20_memory.md): the bytes of a word (R31), the responses the host takes (R23), the trace of a step
(R23, R29), and a command whose range coder does not move (R29, R91, R106). -/

namespace Sys2Proof.Machine

/-! ## A word over a byte-wide transport -/

/-- The bytes of a word, bits 7:0 first, are its digits to the base 256 (R31). -/
theorem bytesOfWord_little_toNat (w : Word64) :
    (bytesOfWord .little w).map BitVec.toNat = (List.range 8).map fun k => w.toNat / 2 ^ (8 * k) % 256 := by
  simp [bytesOfWord, List.range_succ, BitVec.extractLsb'_toNat, Nat.shiftRight_eq_div_pow]

/-- The word of a list of bytes is the number whose digits to the base 256 they are, as far as a word holds it. -/
theorem wordOfLittle_toNat (bytes : List Byte) :
    (wordOfLittle bytes).toNat = Nat.ofDigits 256 (bytes.map BitVec.toNat) % 2 ^ 64 := by
  induction bytes with
  | nil => rfl
  | cons b rest ih =>
    simp only [wordOfLittle, BitVec.toNat_ofNat, ih, List.map_cons, Nat.ofDigits_cons]
    omega

/-- Eight digits to the base 256 are the whole word. -/
theorem wordOfLittle_bytesOfWord (w : Word64) : wordOfLittle (bytesOfWord .little w) = w := by
  apply BitVec.eq_of_toNat_eq
  rw [wordOfLittle_toNat, bytesOfWord_little_toNat]
  have hw := w.isLt
  simp only [List.range_succ, List.range_zero, List.nil_append, List.cons_append, List.map_cons, List.map_nil, Nat.ofDigits_cons,
    Nat.ofDigits_nil]
  omega

/-- Bytes in the one order are the bytes in the other, reversed. -/
theorem bytesOfWord_big (w : Word64) : bytesOfWord .big w = (bytesOfWord .little w).reverse := rfl

/-- Settles O9: the bytes are the digits of the word, and the other order reverses them twice; a list of another length carries no
word. -/
theorem serialisedWordArrives : Obligations.SerialisedWordArrives := by
  refine ⟨?arrives, bytesOfWord_little_toNat, ?wrongLength⟩
  case arrives =>
    intro order w
    cases order with
    | little => exact congrArg some (wordOfLittle_bytesOfWord w)
    | big =>
      have hreversed : wordOfLittle (bytesOfWord .big w).reverse = w := by
        rw [bytesOfWord_big, List.reverse_reverse, wordOfLittle_bytesOfWord]
      exact congrArg some hreversed
  case wrongLength =>
    intro order bytes hlength
    have hnone : wordOfBytes order bytes = none := if_neg hlength
    exact ⟨.wrongLength bytes.length, by simp only [decodeBytes, hnone]⟩

/-! ## Responses are taken -/

theorem takeOldest_cons {s : State} {r : Response} {rest : List Response} (h : s.rsp = r :: rest) :
    takeOldest s = { s with rsp := rest }.record (.rspTaken (responseWord r)) := by
  simp only [takeOldest, h]

theorem takeOldest_nil {s : State} (h : s.rsp = []) : takeOldest s = s := by
  simp only [takeOldest, h]

/-- Settles O52: a host that becomes ready takes all of them, and one that takes one takes the oldest. -/
theorem responsesTakenInOrder : Obligations.ResponsesTakenInOrder := by
  intro s later
  refine ⟨?all, ?oldest, ?nothing⟩
  case all => rw [step_scheduled, applyInput, hostTakes_ready rfl]
  case oldest =>
    intro r rest hrsp
    rw [step_scheduled, applyInput, takeOldest_cons (by exact hrsp)]
    rfl
  case nothing =>
    intro hrsp
    rw [step_scheduled, applyInput, takeOldest_nil (by exact hrsp)]

/-! ## The trace grows at its end -/

/-- `t` comes after `s` in a run, and every event between the two is one of `P`. -/
def GrowsBy (P : Event → Prop) (s t : State) : Prop := ∃ es, t.trace = s.trace ++ es ∧ ∀ e ∈ es, P e

theorem growsBy_of_trace_eq {P : Event → Prop} {s t : State} (h : t.trace = s.trace) : GrowsBy P s t := ⟨[], by simp [h], by simp⟩

theorem growsBy_of_trace_concat {P : Event → Prop} {s t : State} {e : Event} (h : t.trace = s.trace ++ [e]) (he : P e) : GrowsBy P s t :=
  ⟨[e], h, by simpa using he⟩

theorem GrowsBy.trans {P : Event → Prop} {s t u : State} (hst : GrowsBy P s t) (htu : GrowsBy P t u) : GrowsBy P s u := by
  obtain ⟨es, hes, hP⟩ := hst
  obtain ⟨fs, hfs, hP'⟩ := htu
  exact ⟨es ++ fs, by simp [hfs, hes], fun e he => (List.mem_append.mp he).elim (hP e) (hP' e)⟩

theorem GrowsBy.isPrefix {P : Event → Prop} {s t : State} (h : GrowsBy P s t) : s.trace <+: t.trace := by
  obtain ⟨es, hes, -⟩ := h
  exact ⟨es, hes.symm⟩

/-- An event of a channel other than CMD. -/
def NoWordTaken (e : Event) : Prop := ∀ w, e ≠ .cmdTaken w

/-- A transfer with the range coder is one on RCREQ or RCRSP. -/
theorem advance_growsBy (s : State) : GrowsBy NoWordTaken s (advance s) := by
  rcases advance_cases s with e | ⟨r, -, -, e⟩ | ⟨fm, rest, -, -, -, -, e⟩ <;> rw [e]
  · exact growsBy_of_trace_eq rfl
  · exact growsBy_of_trace_concat (e := .rcreqTaken (requestWord r)) (by cases r <;> rfl) (by simp [NoWordTaken])
  · exact growsBy_of_trace_concat (e := .rcrspTaken fm) rfl (by simp [NoWordTaken])

theorem advances_growsBy (s : State) : GrowsBy NoWordTaken s (advance (advance (advance s))) :=
  ((advance_growsBy s).trans (advance_growsBy _)).trans (advance_growsBy _)

/-- What the host takes is on RSP. -/
theorem hostTakes_growsBy (s : State) : GrowsBy NoWordTaken s (hostTakes s) := by
  unfold hostTakes
  split
  · exact ⟨s.rsp.map fun r => .rspTaken (responseWord r), rfl, by simp [NoWordTaken]⟩
  · exact growsBy_of_trace_eq rfl

theorem settle_growsBy (s : State) : GrowsBy NoWordTaken s (settle s) := (advances_growsBy s).trans (hostTakes_growsBy _)

/-- A transfer with the range coder leaves CMD as it is. -/
@[simp] theorem advance_cmd (s : State) : (advance s).cmd = s.cmd := by
  rcases advance_cases s with e | ⟨r, -, -, e⟩ | ⟨fm, rest, -, -, -, -, e⟩ <;> rw [e]
  · cases r <;> rfl
  · rfl

@[simp] theorem settle_cmd (s : State) : (settle s).cmd = s.cmd := by simp only [settle, hostTakes_cmd, advance_cmd]

/-- Outside IDLE, with nothing scheduled, the command in progress goes on (R29). -/
theorem step_in_progress {s : State} (hm : s.mode ≠ .idle) (hi : s.inputs = []) : step s = .next (settle s) := by
  unfold step nextMove blockMove
  rw [hi]
  cases hs : s.mode with
  | idle => exact absurd hs hm
  | run => rfl
  | waitFm => rfl

/-- Settles O38: the command in progress goes on by transfers on the other channels. -/
theorem noWordTakenUnlessIdle : Obligations.NoWordTakenUnlessIdle := by
  intro s t hm hi ht
  obtain rfl : settle s = t := Host.Outcome.next.inj ((step_in_progress hm hi).symm.trans ht)
  obtain ⟨es, hes, hother⟩ := settle_growsBy s
  exact ⟨settle_cmd s, es, hes, fun w hw => hother _ hw w rfl⟩

/-- What a command starts with emits nothing. -/
@[simp] theorem started_trace (i : Instr) (s : State) : (started i s).trace = s.trace := by
  cases i <;> rfl

/-- A word that is taken stands in the trace before everything its command transfers. -/
theorem runWord_isPrefix {s t : State} {w : Word64} (h : runWord w s = .next t) : s.trace <+: t.trace := by
  have htaken : s.trace <+: (takeCommand w s).trace := ⟨_, rfl⟩
  refine htaken.trans ?_
  cases hw : decode w with
  | ok i =>
    simp only [runWord, hw] at h
    obtain ⟨-, rfl⟩ := exec_next h
    rw [← started_trace i]
    exact (settle_growsBy _).isPrefix
  | error e =>
    rw [runWord_illegal ⟨e, hw⟩] at h
    cases h
    rw [← respond_trace .illegalCmd 0#32]
    exact (settle_growsBy _).isPrefix

theorem blockMove_isPrefix {s t : State} (h : blockMove s = .next t) : s.trace <+: t.trace := by
  unfold blockMove at h
  split at h
  case h_1 =>
    split at h
    case h_1 w rest _ => exact runWord_isPrefix (s := { s with cmd := rest }) h
    case h_2 => cases h; exact (hostTakes_growsBy s).isPrefix
  case h_2 => cases h; exact (settle_growsBy s).isPrefix

theorem takeOldest_isPrefix (s : State) : s.trace <+: (takeOldest s).trace := by
  rcases hrsp : s.rsp with _ | ⟨r, rest⟩
  · rw [takeOldest_nil hrsp]
  · rw [takeOldest_cons hrsp]
    exact ⟨_, rfl⟩

/-- Of what can arrive from outside, RST and the host's taking record an event; the rest touches no trace. -/
theorem applyInput_isPrefix {s t : State} {e : Input} (h : applyInput e s = .next t) : s.trace <+: t.trace := by
  cases e with
  | blockMoves => exact blockMove_isPrefix h
  | rst => cases h; exact ⟨_, rfl⟩
  | rspReady ready => cases h; exact (hostTakes_growsBy { s with rspReady := ready }).isPrefix
  | takeResponse => cases h; exact takeOldest_isPrefix s
  | command w => cases h; exact List.prefix_rfl
  | answer fm => cases h; exact List.prefix_rfl
  | rcreqReady ready => cases h; exact List.prefix_rfl
  | rangeCoderRestarted => cases h; exact List.prefix_rfl

theorem step_isPrefix {s t : State} (h : step s = .next t) : s.trace <+: t.trace := by
  unfold step nextMove at h
  split at h
  case h_1 => exact blockMove_isPrefix h
  case h_2 e rest _ => exact applyInput_isPrefix (s := { s with inputs := rest }) h

/-- Settles O44: the trace before the step begins the one after it. -/
theorem traceOnlyGrows : Obligations.TraceOnlyGrows := by
  intro s t h
  obtain ⟨es, hes⟩ := step_isPrefix h
  exact ⟨es, hes.symm⟩

/-! ## A word is taken and its command executed -/

/-- Settles O36: both schedules lead to the block's move, which takes the word and executes its command. -/
theorem stepRunsDecodedCommand : Obligations.StepRunsDecodedCommand := by
  intro s w rest i hm hinputs hc hw
  have hmove : step s = runWord w { s with inputs := s.inputs.tail, cmd := rest } := by
    rcases hinputs with hi | ⟨later, hi⟩
    · simp [step_takes_word hm hi hc, hi]
    · simp [step, nextMove, applyInput, blockMove, hm, hi, hc]
  rw [hmove]
  simp only [runWord, hw]
  rfl

/-- A word with willing agents is taken and answered at the end of one move, the word's event first and the response's last. -/
theorem runWord_answers {s : State} {w : Word64} (h : Willing s) (ho : s.oracle ≠ []) (hd : ∀ i, decode w = .ok i → i.decay < 16384) :
    ∃ (result : Word64) (es : List Event) (u : State), runWord w s = .next (finished u u.regs [.rspTaken result]) ∧
      u.rsp = [] ∧ u.cmd = s.cmd ∧ u.trace = s.trace ++ [.cmdTaken w] ++ es := by
  obtain ⟨hrc, hready, hnone⟩ := h
  cases hw : decode w with
  | error e =>
    rw [runWord_illegal ⟨e, hw⟩, settle_respond (by exact hready) (by exact hnone)]
    exact ⟨_, [], takeCommand w s, rfl, hnone, rfl, by simp⟩
  | ok i =>
    simp only [runWord, hw]
    obtain ⟨result, u, hanswer, hrsp⟩ := transfers_answer i (s := takeCommand w s) hrc ho
    have hrest := leavesRest_transfers i (takeCommand w s)
    obtain ⟨es, hes, -⟩ := advances_growsBy (started i (takeCommand w s))
    rw [hanswer] at hrest hes
    rw [exec_valid (hd i hw), settle, hanswer, hostTakes_respond (s := u) (hrest.rspReady.trans hready) (hrsp.trans hnone)]
    exact ⟨_, es, u, rfl, hrsp.trans hnone, hrest.cmd, by simpa using hes⟩

/-- Settles O42: the move takes the word and ends in the taking of its response. -/
theorem eachStepAnswersOneWord : Obligations.EachStepAnswersOneWord := by
  intro s w rest hm hi hc hwilling ho hd
  obtain ⟨result, es, u, hrun, hrsp, hcmd, htrace⟩ := runWord_answers (s := { s with cmd := rest }) hwilling ho hd
  refine ⟨finished u u.regs [.rspTaken result], es, result, ?step, rfl, rfl, rfl, hrsp, hcmd, ?trace⟩
  case step => rw [step_takes_word hm hi hc, hrun]
  case trace => rw [finished_trace, htrace]

/-! ## A command waits for the range coder -/

/-- The request a command begins with stays on offer while the range coder does not take it (R29, R106). -/
theorem exec_untaken {i : Instr} {s : State} {r : Request} (hd : i.decay < 16384) (hrc : ¬ TakesRequests (started i s))
    (hp : HostPrompt (started i s)) (hr : (started i s).request = some r) : exec i s = .next (started i s) := by
  rw [exec_valid hd, settle_of_advance_eq (advance_untaken hrc hr) hp]

/-- Settles O25: LAPENC's interval stays on offer. -/
theorem lapencWaitsForRangeCoder : Obligations.LapencWaitsForRangeCoder := by
  intro v d s hd hrc hp
  exact ⟨_, _, _, exec_untaken (i := .lapenc v d) hd hrc hp rfl⟩

/-- Settles O54: LAPDEC's query stays on offer, and the registers are those with DECAY loaded. -/
theorem lapdecWaitsForRangeCoder : Obligations.LapdecWaitsForRangeCoder := by
  intro d s hd hrc hp
  refine ⟨loadDecay d s.regs, exec_untaken (i := .lapdec d) hd hrc hp rfl, rfl, ?decay⟩
  case decay => simp only [loadDecay, Regs.setDecay_decay, BitVec.toNat_ofNat, Nat.mod_eq_of_lt (by omega : d < 2 ^ 16)]

/-! ## Waiting changes nothing but the moment -/

/-- `s` with a range coder and a host of this readiness. -/
def State.withReady (s : State) (rcreq rsp : Bool) : State := { s with rcreqReady := rcreq, rspReady := rsp }

theorem State.withReady_withReady (s : State) (rcreq rsp rcreq' rsp' : Bool) :
    (s.withReady rcreq rsp).withReady rcreq' rsp' = s.withReady rcreq' rsp' := rfl

/-- Nothing before the first transfer looks at the agents' readiness. -/
theorem started_withReady (i : Instr) (s : State) (rcreq rsp : Bool) :
    started i (s.withReady rcreq rsp) = (started i s).withReady rcreq rsp := by
  cases i <;> rfl

/-- A LAPDEC whose query is taken makes no other transfer while there is no answer (R68). -/
theorem advance_advance_rcDecodeFreq {s : State} {total : Int} (h : TakesRequests s) (ho : s.oracle = []) :
    advance (advance (rcDecodeFreq total s)) = advance (rcDecodeFreq total s) := by
  rw [advance_rcDecodeFreq h]
  exact advance_waiting rfl rfl ho

/-- A command that is not over has made no transfer, or it is a LAPDEC that has made its first and has no answer. -/
theorem exec_waits_cases {i : Instr} {s t : State} (hp : HostPrompt s) (ht : exec i s = .next t) (hm : t.mode ≠ .idle) :
    t = started i s ∨ ∃ d, i = .lapdec d ∧ TakesRequests s ∧ s.oracle = [] ∧ t = advance (started i s) := by
  obtain ⟨-, rfl⟩ := exec_next ht
  cases i with
  | startfreq d => simp [started, settle, advance_respond] at hm
  | lapenc v d =>
    by_cases hrc : TakesRequests s
    · simp [started, settle, advance_rcEncode (s := s.mapRegs (encRegs v d)) hrc, advance_respond] at hm
    · exact .inl (settle_of_advance_eq (advance_untaken hrc rfl) hp)
  | lapdec d =>
    by_cases hrc : TakesRequests s
    · by_cases ho : s.oracle = []
      · refine .inr ⟨d, rfl, hrc, ho, ?_⟩
        simp only [started]
        rw [settle_rcDecodeFreq_waits (by exact hrc) (by exact hp) (by exact ho), advance_rcDecodeFreq (by exact hrc)]
      · obtain ⟨result, u, hanswer, -⟩ := transfers_answer (.lapdec d) hrc ho
        simp [settle, hanswer] at hm
    · exact .inl (settle_of_advance_eq (advance_untaken hrc rfl) hp)

/-- Where a range coder takes the query, a ready one takes it too, and the same state waits, the readiness aside. -/
theorem advance_lapdec_withReady {d : Nat} {s : State} (h : TakesRequests s) :
    (advance (started (.lapdec d) s)).withReady true true = advance (started (.lapdec d) (s.withReady true true)) := by
  have hready : TakesRequests (s.withReady true true) := ⟨rfl, h.2⟩
  simp only [started]
  rw [advance_rcDecodeFreq (by exact h), advance_rcDecodeFreq (by exact hready)]
  rfl

/-- A command that waits and is then given ready agents ends as it does with agents that are ready from the start. -/
theorem settle_withReady_of_waits {i : Instr} {s t : State} (hp : HostPrompt s) (ht : exec i s = .next t) (hm : t.mode ≠ .idle) :
    settle (t.withReady true true) = settle (started i (s.withReady true true)) := by
  rcases exec_waits_cases hp ht hm with rfl | ⟨d, rfl, hrc, ho, rfl⟩
  · rw [started_withReady]
  · have hready : TakesRequests (s.withReady true true) := ⟨rfl, hrc.2⟩
    have hwaits : advance (advance (started (.lapdec d) (s.withReady true true))) = advance (started (.lapdec d) (s.withReady true true)) :=
      advance_advance_rcDecodeFreq (by exact hready) (by exact ho)
    rw [advance_lapdec_withReady hrc]
    simp only [settle, hwaits]

/-- Settles O41: what a waiting command has done so far is what it does first with ready agents, and the move goes on from there. -/
theorem waitingChangesNothing : Obligations.WaitingChangesNothing := by
  intro i s t rcreq rsp hi hprompt ht hm
  obtain ⟨hd, -⟩ := exec_next ht
  obtain ⟨-, hinputs, -⟩ := commandFrames i (s.withReady rcreq rsp) t ht
  have hstep : step (t.withReady true true) = .next (settle (t.withReady true true)) := step_in_progress hm (hinputs.trans hi)
  have hexec : exec i (s.withReady true true) = .next (settle (started i (s.withReady true true))) := exec_valid hd _
  have hsame := settle_withReady_of_waits (s := s.withReady rcreq rsp) hprompt ht hm
  rw [State.withReady_withReady] at hsame
  exact hstep.trans ((congrArg _ hsame).trans hexec.symm)

end Sys2Proof.Machine

/-! # The words of the block: command words decoded and encoded, response and request words laid out and read back

Proofs about spec/30_encoding.md. What decodes to which command is said once, in `decode_ok_iff`, and the statements about command
words follow from it and from the fields of a word. -/

namespace Sys2Proof.Machine

/-! ## The fields of a command word (R35) -/

/-- A word is its four fields laid out. -/
theorem commandWord_of_fields (w : Word64) : commandWord (opField w) (rsvField w) (decayField w) (valueField w) = w := by
  apply BitVec.eq_of_toNat_eq
  obtain ⟨hop, hrsv, hdecay, hvalue⟩ := fields_toNat w
  rw [commandWord_toNat, hop, hrsv, hdecay, hvalue]
  omega

/-- Shifting a word down and up again by the width of VALUE clears that field and no other. -/
theorem shift_value_out (w : Word64) : (w >>> 32) <<< 32 = commandWord (opField w) (rsvField w) (decayField w) 0#32 := by
  apply BitVec.eq_of_toNat_eq
  obtain ⟨hop, hrsv, hdecay, -⟩ := fields_toNat w
  rw [commandWord_toNat, hop, hrsv, hdecay]
  simp only [BitVec.toNat_shiftLeft, BitVec.toNat_ushiftRight, Nat.shiftLeft_eq, Nat.shiftRight_eq_div_pow, BitVec.toNat_ofNat]
  omega

/-- The mask of R36 keeps OP and RSV. -/
theorem and_mask_eq (w : Word64) : w &&& 0xFFFF000000000000#64 = commandWord (opField w) (rsvField w) 0#16 0#32 := by
  have hmask : 0xFFFF000000000000#64 = BitVec.allOnes 64 <<< 48 := by decide
  obtain ⟨hop, hrsv, -, -⟩ := fields_toNat w
  rw [hmask, ← BitVec.shiftLeft_ushiftRight]
  apply BitVec.eq_of_toNat_eq
  rw [commandWord_toNat, hop, hrsv]
  simp only [BitVec.toNat_shiftLeft, BitVec.toNat_ushiftRight, Nat.shiftLeft_eq, Nat.shiftRight_eq_div_pow, BitVec.toNat_ofNat]
  omega

/-- A word selects the row of an opcode when OP is that opcode and RSV is zero (R36). -/
theorem and_mask_eq_iff (w : Word64) (op : Byte) :
    w &&& 0xFFFF000000000000#64 = commandWord op 0#8 0#16 0#32 ↔ rsvField w = 0#8 ∧ opField w = op := by
  rw [and_mask_eq]
  constructor
  · intro h
    obtain ⟨hop, hrsv, -, -⟩ := commandWord_fields (opField w) (rsvField w) 0#16 0#32
    obtain ⟨hop', hrsv', -, -⟩ := commandWord_fields op 0#8 0#16 0#32
    exact ⟨by rw [← hrsv, h, hrsv'], by rw [← hop, h, hop']⟩
  · rintro ⟨hrsv, hop⟩
    rw [hrsv, hop]

/-! ## What a word decodes to -/

/-- `i` has the operands that R37 reads from `w`. -/
def OperandsOf (w : Word64) (i : Instr) : Prop :=
  match i with
  | .startfreq decay => (decayField w).toNat = decay
  | .lapenc value decay => (valueField w).toInt = value ∧ (decayField w).toNat = decay
  | .lapdec decay => (decayField w).toNat = decay

/-- A word decodes to a command when RSV is zero, OP is the command's opcode and the operands are those of the word (R36 to R38). -/
theorem decode_ok_iff (w : Word64) (i : Instr) :
    decode w = .ok i ↔ (rsvField w = 0#8 ∧ opField w = i.opcode) ∧ OperandsOf w i := by
  constructor
  · intro h
    unfold decode at h
    split_ifs at h with hrsv hstartfreq hlapenc hlapdec <;> obtain rfl := Except.ok.inj h
    · exact ⟨⟨not_not.mp hrsv, hstartfreq⟩, rfl⟩
    · exact ⟨⟨not_not.mp hrsv, hlapenc⟩, rfl, rfl⟩
    · exact ⟨⟨not_not.mp hrsv, hlapdec⟩, rfl⟩
  · rintro ⟨⟨hrsv, hop⟩, hoperands⟩
    cases i with
    | startfreq decay | lapdec decay =>
      obtain rfl := hoperands
      simp [decode, hrsv, hop, Instr.opcode]
    | lapenc value decay =>
      obtain ⟨rfl, rfl⟩ := hoperands
      simp [decode, hrsv, hop, Instr.opcode]

/-- The decoder looks at VALUE in a LAPENC alone (R40). -/
theorem decode_eq_of_fields_eq {w w' : Word64} (hrsv : rsvField w = rsvField w') (hop : opField w = opField w')
    (hdecay : decayField w = decayField w') (hvalue : opField w' = 0x02#8 → valueField w = valueField w') : decode w = decode w' := by
  simp only [decode, hrsv, hop, hdecay]
  by_cases hlapenc : opField w' = 0x02#8
  · rw [hvalue hlapenc]
  · simp only [if_neg hlapenc]

@[simp] theorem decayFits_iff (decay : Nat) : DecayFits decay = true ↔ decay < 65536 := by simp [DecayFits]

@[simp] theorem valueFits_iff (value : Int) : ValueFits value = true ↔ -2147483648 ≤ value ∧ value ≤ 2147483647 := by
  simp [ValueFits]

/-- What is read from a field fits it. -/
theorem OperandsOf.wellFormed {w : Word64} {i : Instr} (h : OperandsOf w i) : i.WellFormed = true := by
  have hdecay : DecayFits (decayField w).toNat = true := (decayFits_iff _).mpr (decayField w).isLt
  have hvalue : ValueFits (valueField w).toInt = true := (valueFits_iff _).mpr ⟨BitVec.le_toInt _, BitVec.toInt_le⟩
  cases i with
  | startfreq decay | lapdec decay =>
    obtain rfl := h
    exact hdecay
  | lapenc value decay =>
    obtain ⟨rfl, rfl⟩ := h
    simp only [Instr.WellFormed, hvalue, hdecay, Bool.and_self]

/-! ## The word of a command -/

/-- OP and RSV of the word the assembler writes (R36, R44). -/
theorem encode_fields (i : Instr) : rsvField (encode i) = 0#8 ∧ opField (encode i) = i.opcode := by
  cases i with
  | startfreq decay => exact (Laws.EncodingFields.startfreq decay).symm
  | lapenc value decay => exact (Laws.EncodingFields.lapenc value decay).symm
  | lapdec decay => exact (Laws.EncodingFields.lapdec decay).symm

/-- Operands that fit their fields are read back from the word (R37). -/
theorem operandsOf_encode {i : Instr} (h : i.WellFormed = true) : OperandsOf (encode i) i := by
  have hdecay {decay : Nat} (hd : DecayFits decay = true) (op : Byte) (value : Word32) :
      (decayField (commandWord op 0#8 (BitVec.ofNat 16 decay) value)).toNat = decay := by
    obtain ⟨-, -, hfield, -⟩ := commandWord_fields op 0#8 (BitVec.ofNat 16 decay) value
    rw [hfield, BitVec.toNat_ofNat, Nat.mod_eq_of_lt ((decayFits_iff decay).mp hd)]
  cases i with
  | startfreq decay | lapdec decay => exact hdecay h _ _
  | lapenc value decay =>
    obtain ⟨hv, hd⟩ : ValueFits value = true ∧ DecayFits decay = true := by simpa only [Instr.WellFormed, Bool.and_eq_true] using h
    obtain ⟨hlow, hhigh⟩ := (valueFits_iff value).mp hv
    obtain ⟨-, -, -, hfield⟩ := commandWord_fields 0x02#8 0#8 (BitVec.ofNat 16 decay) (twos32 value)
    have hvalue : (valueField (encode (.lapenc value decay))).toInt = value :=
      (congrArg sint32 hfield).trans (sint32_twos32 hlow (by omega))
    exact ⟨hvalue, hdecay hd _ _⟩

/-- Settles O1: OP and RSV of the word are the command's, and its operands are read back. -/
theorem decodeOfEncode : Obligations.DecodeOfEncode := fun i hi =>
  (decode_ok_iff _ i).mpr ⟨encode_fields i, operandsOf_encode hi⟩

/-- Settles O2: the word of the command is laid out from the fields it was decoded from, VALUE zero where the command has none. -/
theorem encodeOfDecode : Obligations.EncodeOfDecode := by
  intro w i hw
  obtain ⟨⟨hrsv, hop⟩, hoperands⟩ := (decode_ok_iff w i).mp hw
  refine ⟨hoperands.wellFormed, ?word⟩
  cases i with
  | startfreq decay | lapdec decay =>
    obtain rfl := hoperands
    simp only [encode, shift_value_out, hrsv, hop, BitVec.ofNat_toNat, BitVec.setWidth_eq]
  | lapenc value decay =>
    obtain ⟨rfl, rfl⟩ := hoperands
    calc encode _ = commandWord (opField w) (rsvField w) (decayField w) (valueField w) := by
          simp only [encode, hrsv, hop, BitVec.ofNat_toNat, BitVec.setWidth_eq, BitVec.ofInt_toInt]
      _ = w := commandWord_of_fields w

/-! ## The opcode map, and which words are no command -/

/-- The VALUE field is two's complement (R35, R37). -/
theorem valueField_toInt (w : Word64) :
    (valueField w).toInt =
      if w.toNat % 2 ^ 32 < 2 ^ 31 then ((w.toNat % 2 ^ 32 : Nat) : Int) else ((w.toNat % 2 ^ 32 : Nat) : Int) - 2 ^ 32 := by
  obtain ⟨-, -, -, hvalue⟩ := fields_toNat w
  rw [BitVec.toInt_eq_toNat_cond, hvalue]
  exact if_congr (by omega) rfl rfl

/-- Settles O3: the mask picks out OP and RSV, the operands are the other two fields, and a word that decodes selects a row. -/
theorem opcodeMap : Obligations.OpcodeMap := by
  intro w decay value
  obtain ⟨-, -, hdecay, -⟩ := fields_toNat w
  have hvalue : (valueField w).toInt = value := valueField_toInt w
  have hstartfreq := and_mask_eq_iff w 0x01#8
  have hlapenc := and_mask_eq_iff w 0x02#8
  have hlapdec := and_mask_eq_iff w 0x03#8
  refine ⟨?startfreq, ?lapenc, ?lapdec, ?noRow⟩
  case startfreq => exact fun h => (decode_ok_iff w (.startfreq decay)).mpr ⟨hstartfreq.mp h, hdecay⟩
  case lapenc => exact fun h => (decode_ok_iff w (.lapenc value decay)).mpr ⟨hlapenc.mp h, hvalue, hdecay⟩
  case lapdec => exact fun h => (decode_ok_iff w (.lapdec decay)).mpr ⟨hlapdec.mp h, hdecay⟩
  case noRow =>
    intro hnotStartfreq hnotLapenc hnotLapdec
    cases hw : decode w with
    | error e => exact ⟨e, rfl⟩
    | ok i =>
      obtain ⟨hfields, -⟩ := (decode_ok_iff w i).mp hw
      cases i with
      | startfreq decay => exact absurd (hstartfreq.mpr hfields) hnotStartfreq
      | lapenc value decay => exact absurd (hlapenc.mpr hfields) hnotLapenc
      | lapdec decay => exact absurd (hlapdec.mpr hfields) hnotLapdec

/-- Settles O4: the two reasons of R39, read as the numbers of the fields. -/
theorem decodeRejectsReserved : Obligations.DecodeRejectsReserved := by
  intro w
  obtain ⟨hop, hrsv, -, -⟩ := fields_toNat w
  rw [decode_error_iff]
  simp [BitVec.toNat_eq, hop, hrsv]

/-- Settles O5: without VALUE the words have the same OP, RSV and DECAY; a LAPENC word is the word of its command; and DECAY is no
reason to refuse a word. -/
theorem valueFieldIgnoredOrUsed : Obligations.ValueFieldIgnoredOrUsed := by
  refine ⟨?ignored, ?used, ?largeDecay⟩
  case ignored =>
    intro w w' hsame hopcode
    obtain ⟨hop, hrsv, hdecay, -⟩ := fields_toNat w
    obtain ⟨hop', hrsv', hdecay', -⟩ := fields_toNat w'
    apply decode_eq_of_fields_eq
    · exact BitVec.eq_of_toNat_eq (by omega)
    · exact BitVec.eq_of_toNat_eq (by omega)
    · exact BitVec.eq_of_toNat_eq (by omega)
    · intro hlapenc
      rw [hlapenc] at hop'
      simp only [BitVec.toNat_ofNat] at hop'
      omega
  case used =>
    intro w w' v d hw hw'
    exact (encodeOfDecode w _ hw).2.symm.trans (encodeOfDecode w' _ hw').2
  case largeDecay =>
    intro w hw
    cases hd : decode w with
    | ok i => exact ⟨i, rfl⟩
    | error e =>
      have := (decodeRejectsReserved w).mp ⟨e, hd⟩
      omega

/-! ## The words on RSP and RCREQ -/

/-- Settles O8: each kind is laid out from its fields, and every request is read back. -/
theorem requestWordLayout : Obligations.RequestWordLayout := by
  intro low high total
  refine ⟨rcreqWord_toNat 1#2 low high total, ?decFreq, rcreqWord_toNat 3#2 low high total, readRequest_requestWord _,
    readRequest_requestWord _, readRequest_requestWord _⟩
  case decFreq => simpa [requestWord] using rcreqWord_toNat 2#2 0#16 0#16 total

/-- Settles O7: the word is laid out from its fields, and every response is read back. -/
theorem responseWordLayout : Obligations.ResponseWordLayout := by
  intro status result
  refine ⟨?fields, readResponse_responseWord _⟩
  cases status <;> exact responseWord_toNat _

/-! ## The worked encodings -/

/-- A word that is no command is taken and answered by a block just reset (R39). -/
theorem runWord_reset_illegal {w : Word64} (h : ∃ e, decode w = .error e) :
    runWord w State.reset =
      .next (finished State.reset State.reset.regs [.cmdTaken w, .rspTaken (responseWord ⟨.illegalCmd, 0#32⟩)]) := by
  rw [runWord_illegal h, settle_respond rfl rfl, takeCommand_regs, finished_takeCommand]

/-- Settles O6: each word is computed, and the two illegal ones are refused, for OP and for RSV. -/
theorem workedEncodings : Obligations.WorkedEncodings := by
  iterate 16 refine ⟨by decide, ?_⟩
  intro w hw
  have hrefused : ∃ e, decode w = .error e := by
    rcases List.mem_pair.mp hw with rfl | rfl
    · exact ⟨.reservedOpcode 0x00#8, by decide⟩
    · exact ⟨.reservedFieldSet 0x01#8, by decide⟩
  exact runWord_reset_illegal hrefused

end Sys2Proof.Machine

/-! # The start frequency and the ring table, and STARTFREQ

Proofs about spec/40_start_freq_and_ring_model.md: the division and the shift (R47 to R50), the rings (R51, R52, R54), the command
that answers the start frequency (R56), and the two walks that lay out one and the same ring (R57). -/

namespace Sys2Proof.Machine

/-! ## Which decays have a meaning -/

/-- Settles O35: every command looks at its decay and at nothing else. -/
theorem refusedExactlyOutOfContract : Obligations.RefusedExactlyOutOfContract := by
  intro i s
  by_cases hd : i.decay < 16384
  · simp [exec_valid hd, hd]
  · simp [exec_invalid hd, hd, Nat.le_of_not_lt hd]

/-! ## The start frequency (R47, R49) -/

theorem startFreq_lt_iff {d q : Int} (h0 : 0 ≤ d) : startFreq d < q ↔ 32767 * (16384 - d) < q * (16384 + d) := by
  rw [← not_le, le_startFreq_iff h0, not_le]

theorem startFreq_antitone {d e : Int} (h0 : 0 ≤ d) (hde : d ≤ e) (h1 : e < 16384) : startFreq e ≤ startFreq d := by
  have hpos := startFreq_pos (d := e) (by omega) h1
  have hmul := startFreq_mul_le (d := e) (by omega)
  rw [le_startFreq_iff h0]
  calc startFreq e * (16384 + d) ≤ startFreq e * (16384 + e) := by gcongr
    _ ≤ 32767 * (16384 - e) := hmul
    _ ≤ 32767 * (16384 - d) := by omega

/-- Settles O10: dividend and divisor are not negative, where the three divisions of Lean agree. -/
theorem startFreqIsFloor : Obligations.StartFreqIsFloor := by
  intro d hd a b
  have ha : 0 ≤ a := by omega
  have hb : 0 < b := by omega
  refine ⟨ha, hb, by omega, by omega, startFreq_mul_le (by omega), fun q hq => (le_startFreq_iff (by omega)).mpr hq, ?tdiv, ?fdiv⟩
  case tdiv => exact Int.tdiv_eq_ediv_of_nonneg ha
  case fdiv => exact Int.fdiv_eq_ediv_of_nonneg a hb.le

/-- Settles O11: each bound on the quotient is a linear condition on the decay. -/
theorem startFreqRange : Obligations.StartFreqRange := by
  refine ⟨?range, fun d e hde he => startFreq_antitone (by omega) (by omega) (by omega), by decide⟩
  case range =>
    intro d hd
    have hpos := startFreq_pos (d := d) (by omega) (by omega)
    have hle := startFreq_le (d := d) (by omega)
    have hlargest := le_startFreq_iff (d := d) (q := 32767) (by omega)
    have hsecond := le_startFreq_iff (d := d) (q := 2) (by omega)
    exact ⟨hpos, hle, by omega, by omega⟩

/-! ## The shrink step (R48, R50) -/

/-- Settles O12: the product is not negative, where the four roundings agree. -/
theorem shrinkLowersWidth : Obligations.ShrinkLowersWidth := by
  intro fs d hf h0 h1
  have hprod : 0 ≤ fs * d := Int.mul_nonneg hf h0
  refine ⟨?fdiv, ?tdiv, ?logical, shrink_zero_left d, by simp [shrink_eq], shrink_nonneg hf h0, ?lowers⟩
  case fdiv => rw [shrink_eq, Int.fdiv_eq_ediv_of_nonneg _ (by omega)]
  case tdiv => rw [shrink_eq, Int.tdiv_eq_ediv_of_nonneg hprod]
  case logical =>
    rw [shrink_eq, Nat.shiftRight_eq_div_pow, Int.natCast_ediv, Int.toNat_of_nonneg hprod]
    rfl
  case lowers =>
    intro hpos
    exact Int.le_sub_one_of_lt (shrink_lt hpos h1)

theorem shrink_mono {w w' d d' : Int} (hw : 0 ≤ w) (hww : w ≤ w') (h0 : 0 ≤ d) (hdd : d ≤ d') : shrink w d ≤ shrink w' d' := by
  rw [shrink_eq, shrink_eq]
  have hprod : w * d ≤ w' * d' := mul_le_mul hww hdd h0 (by omega)
  exact Int.ediv_le_ediv (by omega) hprod

/-- A width above `16384 * j / (16384 - d)` loses more than `j` in one shrink step. -/
theorem shrink_le_sub {w d j : Int} (h1 : d < 16384) (hw : 16384 * j / (16384 - d) < w) : shrink w d ≤ w - j - 1 := by
  rw [Int.ediv_lt_iff_lt_mul (by omega)] at hw
  have hlt : shrink w d < w - j := by
    rw [shrink_eq, Int.ediv_lt_iff_lt_mul (by omega)]
    linarith
  omega

/-! ## The number of rings (R51, R54 items 2 and 3) -/

section
variable {d : Int} (h0 : 0 ≤ d) (h1 : d < 16384)
include h0 h1

theorem ringWidth_ringCount : ringWidth d (ringCount d) = 0 := by
  have hspec := (positiveWidths_spec h0 h1 Config.walkBound 0 (startFreq_le h0)).1
  rwa [zero_add] at hspec

theorem ringWidth_pos {k : Nat} (hk : k < ringCount d) : 1 ≤ ringWidth d k := by
  have hspec := positiveWidths_spec h0 h1 Config.walkBound 0 (startFreq_le h0)
  simpa using hspec.2 k hk

theorem ringWidth_eq_zero {k : Nat} (hk : ringCount d ≤ k) : ringWidth d k = 0 := by
  induction k, hk using Nat.le_induction with
  | base => exact ringWidth_ringCount h0 h1
  | succ k _ ih => rw [ringWidth_succ, ih, shrink_zero_left]

/-- `K` is the least index of width zero (R51). -/
theorem lt_ringCount_iff {k : Nat} : k < ringCount d ↔ 1 ≤ ringWidth d k := by
  refine ⟨ringWidth_pos h0 h1, fun hpos => ?_⟩
  by_contra hk
  rw [ringWidth_eq_zero h0 h1 (Nat.le_of_not_lt hk)] at hpos
  omega

theorem ringCount_pos : 1 ≤ ringCount d :=
  (lt_ringCount_iff h0 h1).mpr (startFreq_pos h0 h1)

theorem ringWidth_strictAnti {k : Nat} (hk : k < ringCount d) : ringWidth d (k + 1) < ringWidth d k :=
  shrink_lt (ringWidth_pos h0 h1 hk) h1

/-- Each ring costs the start frequency at least 1. -/
theorem ringWidth_add_le {k : Nat} (hk : k ≤ ringCount d) : ringWidth d k + k ≤ startFreq d := by
  induction k with
  | zero => simp
  | succ k ih =>
    have hlt := ringWidth_strictAnti h0 h1 hk
    have hle := ih (by omega)
    push_cast
    omega

theorem ringCount_le_startFreq : (ringCount d : Int) ≤ startFreq d := by
  have h := ringWidth_add_le h0 h1 le_rfl
  rwa [ringWidth_ringCount h0 h1, zero_add] at h

end

/-- Settles O13: the widths fall by at least 1 from `fs_0` on, so that they reach zero, and zero is kept. -/
theorem ringWidthsFallToZero : Obligations.RingWidthsFallToZero := by
  intro d hd
  have h0 : (0 : Int) ≤ d := by omega
  have h1 : (d : Int) < 16384 := by omega
  exact ⟨ringCount_pos h0 h1, ringCount_le_startFreq h0 h1, fun k hk => ⟨ringWidth_pos h0 h1 hk, ringWidth_strictAnti h0 h1 hk⟩,
    fun k hk => ringWidth_eq_zero h0 h1 hk⟩

/-! ## Where there is one ring -/

/-- `fs_0 * d`, of which the first shrink step takes the 16384th part, reaches 16384 for every decay but the two ends. -/
theorem le_startFreq_mul {d : Int} (h0 : 1 ≤ d) (h1 : d ≤ 16382) : 16384 ≤ startFreq d * d := by
  have hfreq := fun q : Int => le_startFreq_iff (d := d) (q := q) (by omega)
  obtain h | h | h : d = 1 ∨ (2 ≤ d ∧ d ≤ 8192) ∨ 8192 ≤ d := by omega
  · subst h
    decide
  · have hf : 10922 ≤ startFreq d := (hfreq 10922).mpr (by omega)
    nlinarith
  · have hf : 2 ≤ startFreq d := (hfreq 2).mpr (by omega)
    nlinarith

/-- There is one ring where the first shrink step leaves nothing (R54 item 3). -/
theorem ringCount_eq_one_iff {d : Int} (h0 : 0 ≤ d) (h1 : d < 16384) : ringCount d = 1 ↔ d = 0 ∨ d = 16383 := by
  have hpos := ringCount_pos h0 h1
  have htwo : 1 < ringCount d ↔ 16384 ≤ startFreq d * d := by
    rw [lt_ringCount_iff h0 h1, ringWidth_succ, ringWidth_zero, shrink_eq, Int.le_ediv_iff_mul_le (by omega), one_mul]
  constructor
  · intro hone
    by_contra hends
    have := htwo.mpr (le_startFreq_mul (by omega) (by omega))
    omega
  · rintro (rfl | rfl) <;> decide

/-! ## No more than 136 rings

A width `w` loses `j + 1` or more in one step while it lies above `16384 * j / (16384 - d)` (`shrink_le_sub`). So the steps below the
first such threshold are at most one for each position, those between the first and the second at most one for two positions, and so
on: a concave potential, of which every step uses up at least 1. For decays from 16072 on, where the counts come near 136, three
thresholds are enough. Below, a width falls so fast that whole ranges of decays are compared with one count each. -/

/-- Twelve times the potential of a width: 12 for each position below the first threshold, then 6, then 4, and 3 above the third. -/
def stepPotential (d w : Int) : Int :=
  6 * min w (16384 * 1 / (16384 - d)) + 2 * min w (16384 * 2 / (16384 - d)) + min w (16384 * 3 / (16384 - d)) + 3 * w

/-- Each step from a positive width uses up at least 1 of the potential. -/
theorem stepPotential_shrink {d w : Int} (h1 : d < 16384) (hw : 1 ≤ w) : stepPotential d (shrink w d) + 12 ≤ stepPotential d w := by
  have hlt := shrink_lt hw h1
  have hfirst := shrink_le_sub (w := w) (j := 1) h1
  have hsecond := shrink_le_sub (w := w) (j := 2) h1
  have hthird := shrink_le_sub (w := w) (j := 3) h1
  have hmono₁ : 16384 * 1 / (16384 - d) ≤ 16384 * 2 / (16384 - d) := Int.ediv_le_ediv (by omega) (by omega)
  have hmono₂ : 16384 * 2 / (16384 - d) ≤ 16384 * 3 / (16384 - d) := Int.ediv_le_ediv (by omega) (by omega)
  unfold stepPotential
  generalize shrink w d = v at *
  generalize 16384 * 1 / (16384 - d) = t₁ at *
  generalize 16384 * 2 / (16384 - d) = t₂ at *
  generalize 16384 * 3 / (16384 - d) = t₃ at *
  omega

theorem stepPotential_nonneg {d w : Int} (h1 : d < 16384) (hw : 0 ≤ w) : 0 ≤ stepPotential d w := by
  have hthreshold : ∀ j : Int, 0 ≤ j → 0 ≤ 16384 * j / (16384 - d) := fun j hj => Int.ediv_nonneg (by omega) (by omega)
  have ht₁ := hthreshold 1 (by omega)
  have ht₂ := hthreshold 2 (by omega)
  have ht₃ := hthreshold 3 (by omega)
  unfold stepPotential
  positivity

theorem positiveWidths_le_stepPotential {d : Int} (h0 : 0 ≤ d) (h1 : d < 16384) (bound : Nat) {w : Int} (hw : 0 ≤ w) :
    12 * (positiveWidths bound w d : Int) ≤ stepPotential d w := by
  induction bound generalizing w with
  | zero => simpa [positiveWidths] using stepPotential_nonneg h1 hw
  | succ n ih =>
    unfold positiveWidths
    split
    case isTrue => simpa using stepPotential_nonneg h1 hw
    case isFalse hne =>
      have hstep := stepPotential_shrink (w := w) h1 (by omega)
      have hrest := ih (shrink_nonneg hw h0)
      push_cast
      omega

/-- A greater width shrunk by a greater decay stays the greater one at every step, so it reaches zero no earlier. -/
theorem positiveWidths_mono (bound : Nat) {w w' d d' : Int} (hw : 0 ≤ w) (hww : w ≤ w') (h0 : 0 ≤ d) (hdd : d ≤ d') :
    positiveWidths bound w d ≤ positiveWidths bound w' d' := by
  induction bound generalizing w w' with
  | zero => rfl
  | succ n ih =>
    have hrest := ih (shrink_nonneg hw h0) (shrink_mono hw hww h0 hdd)
    unfold positiveWidths
    split <;> split <;> omega

/-- The decays from `lo` to `hi` have no more rings than the greatest of their start frequencies shrunk by the greatest of them. -/
theorem ringCount_le_of_range {d lo hi : Int} {n : Nat} (h0 : 0 ≤ lo) (hlo : lo ≤ d) (hhi : d ≤ hi) (h1 : hi < 16384)
    (hcount : positiveWidths Config.walkBound (startFreq lo) hi ≤ n) : ringCount d ≤ n := by
  have hpos := startFreq_pos (d := d) (by omega) (by omega)
  have hfreq := startFreq_antitone h0 hlo (by omega)
  exact (positiveWidths_mono Config.walkBound (by omega) hfreq (by omega) hhi).trans hcount

/-- The potential of the start frequency, for `e = 16384 - d`. The start frequency is at most `e`, `e + 1` or `e + 2`; with the first
one, two or three thresholds, 136 rings would ask of `e` a quadratic inequality that fails throughout the range. -/
theorem ringCount_le_of_large_decay {e : Int} (h0 : 0 < e) (h1 : e ≤ 312) (hne : e ≠ 182) : ringCount (16384 - e) ≤ 135 := by
  have hcount := ringCount_le_startFreq (d := 16384 - e) (by omega) (by omega)
  have hpos := startFreq_pos (d := 16384 - e) (by omega) (by omega)
  have hpotential : 12 * (ringCount (16384 - e) : Int) ≤ stepPotential (16384 - e) (startFreq (16384 - e)) :=
    positiveWidths_le_stepPotential (by omega) (by omega) Config.walkBound (by omega)
  have hfreq := fun q : Int => startFreq_lt_iff (d := 16384 - e) (q := q) (by omega)
  have hthreshold : ∀ j : Int, 16384 * j / e * e ≤ 16384 * j := fun j => Int.ediv_mul_le _ (by omega)
  have ht₁ := hthreshold 1
  have ht₂ := hthreshold 2
  have ht₃ := hthreshold 3
  simp only [stepPotential, sub_sub_cancel] at hpotential
  generalize startFreq (16384 - e) = f at *
  generalize 16384 * 1 / e = t₁ at *
  generalize 16384 * 2 / e = t₂ at *
  generalize 16384 * 3 / e = t₃ at *
  by_contra hc
  obtain he | he | he | he : e ≤ 90 ∨ (91 ≤ e ∧ e ≤ 181) ∨ (183 ≤ e ∧ e ≤ 224) ∨ 225 ≤ e := by omega
  · have hf : f < 136 := (hfreq 136).mpr (by omega)
    omega
  · have hf : f < e + 1 := (hfreq (e + 1)).mpr (by nlinarith)
    have ht : 272 - e ≤ t₁ := by omega
    nlinarith
  · have hf : f < e + 2 := (hfreq (e + 2)).mpr (by nlinarith)
    have ht : 814 - 2 * e ≤ 3 * t₁ + t₂ := by omega
    nlinarith
  · have hf : f < e + 3 := (hfreq (e + 3)).mpr (by nlinarith)
    have ht : 1626 - 3 * e ≤ 6 * t₁ + 2 * t₂ + t₃ := by omega
    nlinarith

/-- Four ranges of decays, each below the count of its ends. -/
theorem ringCount_le_of_small_decay {d : Int} (h0 : 0 ≤ d) (h1 : d ≤ 16071) : ringCount d ≤ 135 := by
  obtain h | ⟨hlo, hhi⟩ | ⟨hlo, hhi⟩ | h : d ≤ 15068 ∨ (15069 ≤ d ∧ d ≤ 15864) ∨ (15865 ≤ d ∧ d ≤ 16012) ∨ 16013 ≤ d := by omega
  · exact ringCount_le_of_range le_rfl h0 h (by decide) (by decide +kernel)
  · exact ringCount_le_of_range (by decide) hlo hhi (by decide) (by decide +kernel)
  · exact ringCount_le_of_range (by decide) hlo hhi (by decide) (by decide +kernel)
  · exact ringCount_le_of_range (by decide) h h1 (by decide) (by decide +kernel)

theorem ringCount_le_135 {d : Int} (h0 : 0 ≤ d) (h1 : d < 16384) (hne : d ≠ 16202) : ringCount d ≤ 135 := by
  by_cases hd : d ≤ 16071
  · exact ringCount_le_of_small_decay h0 hd
  · have h := ringCount_le_of_large_decay (e := 16384 - d) (by omega) (by omega) (by omega)
    rwa [sub_sub_cancel] at h

/-- Settles O14: 135 everywhere but at 16202; and one ring where `fs_0 * d` is below 16384. -/
theorem ringCountBounds : Obligations.RingCountBounds := by
  refine ⟨?bounds, by decide +kernel⟩
  case bounds =>
    intro d hd
    have h0 : (0 : Int) ≤ d := by omega
    have h1 : (d : Int) < 16384 := by omega
    have hone := ringCount_eq_one_iff h0 h1
    by_cases hd : d = 16202
    · have hmost : ringCount d = 136 := by
        subst hd
        decide +kernel
      exact ⟨by omega, by omega, by omega⟩
    · have hless := ringCount_le_135 h0 h1 (by omega)
      exact ⟨by omega, by omega, by omega⟩

/-! ## The rings cover the positions below their mass (R52, R54 item 4) -/

section
variable {d : Int} (h0 : 0 ≤ d) (h1 : d < 16384)
include h0 h1

theorem ringBase_monotone : Monotone (ringBase d) :=
  monotone_nat_of_le_succ (ringBase_mono h0 h1)

/-- Past the last ring of non-zero width the boundaries stay where they are. -/
theorem ringBase_eq_ringMass {k : Nat} (hk : ringCount d ≤ k) : ringBase d k = ringMass d := by
  have hpos := ringCount_pos h0 h1
  induction k, hk using Nat.le_induction with
  | base => rfl
  | succ k hk ih => rw [ringBase_succ d (by omega), ringWidth_eq_zero h0 h1 hk, ih, mul_zero, add_zero]

theorem ringBase_le_ringMass (k : Nat) : ringBase d k ≤ ringMass d := by
  rcases le_total k (ringCount d) with hk | hk
  · exact ringBase_monotone h0 h1 hk
  · exact (ringBase_eq_ringMass h0 h1 hk).le

theorem ringMass_pos : 1 ≤ ringMass d := by
  have hfirst := ringBase_le_ringMass h0 h1 1
  have hfreq := startFreq_pos h0 h1
  rw [ringBase_one] at hfirst
  omega

end

/-- A position below the `n`-th boundary lies in one of the rings before it. -/
theorem exists_ring {d p : Int} {n : Nat} (hp : 0 ≤ p) (hn : p < ringBase d n) :
    ∃ k, k < n ∧ ringBase d k ≤ p ∧ p < ringBase d (k + 1) := by
  induction n with
  | zero =>
    rw [ringBase_zero] at hn
    omega
  | succ n ih =>
    by_cases hlast : ringBase d n ≤ p
    · exact ⟨n, n.lt_succ_self, hlast, hn⟩
    · obtain ⟨k, hk, hring⟩ := ih (by omega)
      exact ⟨k, by omega, hring⟩

/-- Settles O15: the boundaries rise to the mass, which the potential of the boundaries keeps below the total. -/
theorem ringMassAtMostTotal : Obligations.RingMassAtMostTotal := by
  intro d hd
  have h0 : (0 : Int) ≤ d := by omega
  have h1 : (d : Int) < 16384 := by omega
  exact ⟨ringMass_pos h0 h1, ringBase_le h0 h1 _, ringBase_le_ringMass h0 h1⟩

/-- Settles O16: the boundaries never fall, so that two rings are disjoint and all of them lie between 0 and the mass. -/
theorem ringsPartition : Obligations.RingsPartition := by
  intro d p hd
  have hmono : Monotone (ringBase d) := ringBase_monotone (by omega) (by omega)
  refine ⟨⟨fun ⟨hp, hmass⟩ => exists_ring hp hmass, ?inside⟩, ?unique⟩
  case inside =>
    rintro ⟨k, hk, hlow, hhigh⟩
    have hbase : ringBase d 0 ≤ ringBase d k := hmono k.zero_le
    have hmass : ringBase d (k + 1) ≤ ringMass d := hmono hk
    rw [ringBase_zero] at hbase
    omega
  case unique =>
    intro j k _ _ hj hj' hk hk'
    by_contra hne
    exact Set.disjoint_left.mp (hmono.pairwise_disjoint_on_Ico_succ hne) ⟨hj, hj'⟩ ⟨hk, hk'⟩

/-! ## STARTFREQ (R56) -/

/-- FS holds the start frequency, which fits it. -/
theorem startfreqRegs_fs {d : Nat} (hd : d < 16384) (r : Regs) : ((startfreqRegs d r).fs.toNat : Int) = startFreq d := by
  have hpos := startFreq_pos (d := d) (by omega) (by omega)
  have hle := startFreq_le (d := d) (by omega)
  have hfs : (startfreqRegs d r).fs = twos32 (startFreq d) := congrArg (fun x => twos32 (startFreq x)) (getDecay_loadDecay hd r)
  rw [hfs, twos32, BitVec.toNat_ofInt]
  omega

/-- Settles O18: the command answers at once, and a ready host takes the answer. -/
theorem startfreqAnswers : Obligations.StartfreqAnswers := by
  intro d s hd hready hnone
  refine ⟨startfreqRegs d s.regs, (startfreqRegs d s.regs).fs, ?answers, startfreqRegs_fs hd s.regs, ?decay, rfl⟩
  case answers =>
    rw [exec_valid (i := .startfreq d) hd, started, settle_respond (by exact hready) (by exact hnone)]
    rfl
  case decay =>
    have hdecay : (startfreqRegs d s.regs).decay = BitVec.ofNat 16 d := rfl
    rw [hdecay, BitVec.toNat_ofNat, Nat.mod_eq_of_lt (by omega)]

/-! ## The ring in which each walk ends (R57, R61, R70) -/

theorem getI_setI {n : Nat} (r : Regs) (hn : n < 4294967296) : (r.setI n).getI = n := Nat.mod_eq_of_lt hn

theorem getFm_setFm (r : Regs) (fm : Word16) : (r.setFm (uint16 fm)).getFm = uint16 fm := by
  have hlt := fm.isLt
  exact sint32_twos32 (by simp only [uint16]; omega) (by simp only [uint16]; omega)

/-- With enough rounds left, the encoder's walk goes on from ring `k`, of which I is the index, to the ring of the magnitude, and no
further than the last of non-zero width (R61). -/
theorem encWalk_reaches {d : Nat} (hd : d < 16384) (n : Nat) {k : Nat} {r : Regs} (h : EncAtRing d k r) (hi : r.getI = k)
    (hk : k ≤ r.getMag) (hn : ringCount d ≤ n + k) : EncAtRing d (min r.getMag (ringCount d - 1)) (encWalk n r) := by
  have hcount := (lt_ringCount_iff (by omega) (by omega)).mpr h.nonempty
  induction n generalizing k r with
  | zero => omega
  | succ n ih =>
    obtain ⟨hdecay, hwidth, hlow⟩ := encAdvance_next hd h
    have hnext := lt_ringCount_iff (d := d) (k := k + 1) (by omega) (by omega)
    have hnonneg := ringWidth_nonneg (d := d) (by omega) (by omega) (k + 1)
    by_cases hmore : r.getI < r.getMag
    · by_cases hzero : (encAdvance r).getFs = 0
      · rw [encWalk_rolledBack n hmore hzero, show min r.getMag (ringCount d - 1) = k by omega]
        exact encRollBack_atRing h
      · rw [encWalk_goesOn n hmore hzero]
        have hring : EncAtRing d (k + 1) ((encAdvance r).setI (r.getI + 1)) := ⟨hdecay, hwidth, hlow, by omega⟩
        have hmag : ((encAdvance r).setI (r.getI + 1)).getMag = r.getMag := rfl
        have hi' : ((encAdvance r).setI (r.getI + 1)).getI = k + 1 := by
          have hlt := r.mag.isLt
          rw [hi, getI_setI]
          unfold Regs.getMag at hmore
          omega
        rw [← hmag]
        exact ih hring hi' (by omega) (by omega) (by omega)
    · rw [encWalk_done n hmore, show min r.getMag (ringCount d - 1) = k by omega]
      exact h

/-- With enough rounds left, the decoder's walk goes on from ring `k` to the ring `m` of the answer (R70). -/
theorem decWalk_reaches {d m : Nat} (hd : d < 16384) (hm : m < ringCount d) (n : Nat) {k : Nat} {r : Regs} (h : DecAtRing d k r)
    (hlow : ringBase d m ≤ r.getFm) (hhigh : r.getFm < ringBase d (m + 1)) (hk : k ≤ m) (hn : m ≤ n + k) :
    DecAtRing d m (decWalk n r) := by
  have hmono : Monotone (ringBase d) := ringBase_monotone (by omega) (by omega)
  induction n generalizing k r with
  | zero =>
    obtain rfl : k = m := by omega
    exact h
  | succ n ih =>
    have hpos := ringWidth_pos (d := d) (k := k) (by omega) (by omega) (by omega)
    obtain rfl | hbefore := Nat.eq_or_lt_of_le hk
    · have hend : ¬ (r.getFh ≤ r.getFm ∧ r.getFs ≠ 0) := by rw [h.high]; omega
      rw [decWalk, if_neg hend]
      exact h
    · have hmore : r.getFh ≤ r.getFm ∧ r.getFs ≠ 0 := ⟨h.high.trans_le ((hmono hbefore).trans hlow), by rw [h.width]; omega⟩
      rw [decWalk, if_pos hmore]
      exact ih (decAdvance_atRing hd h) hlow hhigh hbefore (by omega)

/-- Settles O32: both walks end at ring `k`, where FS and FL are its width and its boundary. -/
theorem walksAgree : Obligations.WalksAgree := by
  intro d k fm r r' hd hk hcount hlow hhigh
  have hle := ringCount_le_startFreq (d := d) (by omega) (by omega)
  have hfreq := startFreq_le (d := d) (by omega)
  have hmag : (encStart k d r).getMag = k := (signAndMagnitude k d r (by omega) (by omega)).2
  have hbound : Config.walkBound = 32767 := rfl
  have henc : EncAtRing d k (encWalk Config.walkBound (encStart k d r)) := by
    have hreach := encWalk_reaches hd Config.walkBound (encStart_atRing hd k r) rfl (Nat.zero_le _) (by omega)
    rwa [hmag, min_eq_left (by omega)] at hreach
  have hdec : DecAtRing d k (decWalked fm (loadDecay d r')) := by
    have hfm : (decStart fm (loadDecay d r')).getFm = fm.toNat := getFm_setFm (loadDecay d r') fm
    exact decWalk_reaches hd hcount Config.walkBound (decStart_atRing hd fm (getDecay_loadDecay hd r')) (by omega) (by omega)
      (Nat.zero_le _) (by omega)
  have hfl := henc.low
  rw [if_neg (by omega), ← hdec.low] at hfl
  exact ⟨BitVec.eq_of_toInt_eq hfl, BitVec.eq_of_toInt_eq (henc.width.trans hdec.width.symm)⟩

end Sys2Proof.Machine

/-! # The walk of LAPENC and the interval it emits

Proofs about spec/41_encoder.md: the steps of the walk (R61, R105), the closed form of the interval (R65), and its corner cases, the
magnitudes past the last ring and the one breach of the range coder's precondition (R66). -/

namespace Sys2Proof.Machine

/-! ## The steps of the walk (R61, R105) -/

/-- The walk of as many steps as the magnitude asks for executes no further one. -/
theorem encWalkSteps_done {r : Regs} (n : Nat) (hmore : ¬ r.getI < r.getMag) : encWalkSteps (n + 1) r = 0 := if_neg hmore

/-- The step that is rolled back is counted, and is the last. -/
theorem encWalkSteps_rolledBack {r : Regs} (n : Nat) (hmore : r.getI < r.getMag) (hzero : (encAdvance r).getFs = 0) :
    encWalkSteps (n + 1) r = 1 := by
  rw [encWalkSteps, if_pos hmore, if_pos hzero]

theorem encWalkSteps_goesOn {r : Regs} (n : Nat) (hmore : r.getI < r.getMag) (hpositive : (encAdvance r).getFs ≠ 0) :
    encWalkSteps (n + 1) r = encWalkSteps n ((encAdvance r).setI (r.getI + 1)) + 1 := by
  rw [encWalkSteps, if_pos hmore, if_neg hpositive]

/-- With enough rounds left, the walk from ring `k`, of which I is the index, executes the steps up to the ring of the magnitude, or
up to the first ring of width zero; I counts those that complete. -/
theorem encWalk_counts {d : Nat} (hd : d < 16384) (n : Nat) {k : Nat} {r : Regs} (h : EncAtRing d k r) (hi : r.getI = k)
    (hk : k ≤ r.getMag) (hn : ringCount d ≤ n + k) :
    k + encWalkSteps n r = min r.getMag (ringCount d) ∧ (encWalk n r).getI = min r.getMag (ringCount d - 1) := by
  have hcount := (lt_ringCount_iff (by omega) (by omega)).mpr h.nonempty
  induction n generalizing k r with
  | zero => omega
  | succ n ih =>
    obtain ⟨hdecay, hwidth, hlow⟩ := encAdvance_next hd h
    have hnext := lt_ringCount_iff (d := d) (k := k + 1) (by omega) (by omega)
    have hnonneg := ringWidth_nonneg (d := d) (by omega) (by omega) (k + 1)
    by_cases hmore : r.getI < r.getMag
    · by_cases hzero : (encAdvance r).getFs = 0
      · have hback : (encRollBack (encAdvance r)).getI = r.getI := by
          rw [encRollBack_encAdvance]
          rfl
        rw [encWalkSteps_rolledBack n hmore hzero, encWalk_rolledBack n hmore hzero, hback]
        omega
      · have hring : EncAtRing d (k + 1) ((encAdvance r).setI (r.getI + 1)) := ⟨hdecay, hwidth, hlow, by omega⟩
        have hmag : ((encAdvance r).setI (r.getI + 1)).getMag = r.getMag := rfl
        have hi' : ((encAdvance r).setI (r.getI + 1)).getI = k + 1 := by
          have hlt : r.getMag < 4294967296 := r.mag.isLt
          rw [hi, getI_setI _ (by omega)]
        obtain ⟨hsteps, hend⟩ := ih hring hi' (by omega) (by omega) (by omega)
        rw [encWalkSteps_goesOn n hmore hzero, encWalk_goesOn n hmore hzero]
        omega
    · rw [encWalkSteps_done n hmore, encWalk_done n hmore]
      omega

/-- The ring in which LAPENC encodes `v`: that of its magnitude, or the last of non-zero width (R61). -/
def encRing (v : Int) (d : Nat) : Nat := min v.natAbs (ringCount d - 1)

/-- The walk's bound is never met (R54 item 2; log 16). -/
theorem ringCount_le_walkBound {d : Nat} (hd : d < 16384) : ringCount d ≤ Config.walkBound := by
  have hle := ringCount_le_startFreq (d := d) (by omega) (by omega)
  have hfreq := startFreq_le (d := d) (by omega)
  have hbound : Config.walkBound = 32767 := rfl
  omega

section
variable {v : Int} {d : Nat} (lo : -2147483648 ≤ v) (hi : v ≤ 2147483647) (hd : d < 16384)
include lo hi

theorem encStart_getMag (r : Regs) : (encStart v d r).getMag = v.natAbs := (signAndMagnitude v d r lo hi).2

theorem encWalk_encStart_s (r : Regs) : (encWalk Config.walkBound (encStart v d r)).s = decide (v < 0) := by
  obtain ⟨_, _, _, _, _, hframe⟩ := encWalk_frame Config.walkBound (encStart v d r)
  rw [hframe]
  exact (signAndMagnitude v d r lo hi).1

include hd

theorem encWalk_encStart_atRing (r : Regs) : EncAtRing d (encRing v d) (encWalk Config.walkBound (encStart v d r)) := by
  have hreach := encWalk_reaches hd Config.walkBound (encStart_atRing hd v r) rfl (Nat.zero_le _) (ringCount_le_walkBound hd)
  rwa [encStart_getMag lo hi] at hreach

theorem encWalk_encStart_counts (r : Regs) :
    encWalkSteps Config.walkBound (encStart v d r) = min v.natAbs (ringCount d) ∧
      (encWalk Config.walkBound (encStart v d r)).getI = encRing v d := by
  have hcounts := encWalk_counts hd Config.walkBound (encStart_atRing hd v r) rfl (Nat.zero_le _) (ringCount_le_walkBound hd)
  rwa [encStart_getMag lo hi, zero_add] at hcounts

end

/-- Settles O20: the steps are counted along the walk, which ends at the ring of the magnitude or at the last of non-zero width. -/
theorem encoderWalkReachesRing : Obligations.EncoderWalkReachesRing := by
  intro v d r lo hi hd m w
  obtain ⟨hsteps, hindex⟩ := encWalk_encStart_counts lo hi hd r
  obtain ⟨-, hwidth, hlow, hpos⟩ := encWalk_encStart_atRing lo hi hd r
  exact ⟨hsteps, hindex, hwidth, hpos.trans_eq hwidth.symm, hlow⟩

/-! ## The interval of the closed form (R65) -/

/-- The lower end of the interval for `v`: a negative value takes the upper half of its ring (R63, R65). -/
def encLow (v : Int) (d : Nat) : Int :=
  if v < 0 then ringBase d (encRing v d) + ringWidth d (encRing v d) else ringBase d (encRing v d)

/-- The upper end of the interval for `v` (R64, R65). -/
def encHigh (v : Int) (d : Nat) : Int := encLow v d + ringWidth d (encRing v d)

theorem encLow_of_neg {v : Int} (h : v < 0) (d : Nat) : encLow v d = ringBase d (encRing v d) + ringWidth d (encRing v d) := if_pos h

theorem encLow_of_nonneg {v : Int} (h : 0 ≤ v) (d : Nat) : encLow v d = ringBase d (encRing v d) := if_neg (not_lt.mpr h)

/-- The request LAPENC makes for `v`. -/
def encRequest (v : Int) (d : Nat) : Request := .encInterval (word16 (encLow v d)) (word16 (encHigh v d)) 32767#16

@[simp] theorem encClamp_s (r : Regs) : (encClamp r).s = r.s := by unfold encClamp; split <;> rfl

@[simp] theorem shiftBySign_getFs (r : Regs) : (shiftBySign r).getFs = r.getFs := by unfold shiftBySign; split <;> rfl

section
variable {v : Int} {d : Nat} (lo : -2147483648 ≤ v) (hi : v ≤ 2147483647) (hd : d < 16384)
include lo hi hd

theorem encRegs_getFs (r : Regs) : (encRegs v d r).getFs = ringWidth d (encRing v d) := by
  rw [encRegs, shiftBySign_getFs, Regs.getFs, encClamp_fs]
  exact (encWalk_encStart_atRing lo hi hd r).width

theorem encRegs_getFl (r : Regs) : (encRegs v d r).getFl = encLow v d := by
  have hring := encWalk_encStart_atRing lo hi hd r
  have hbase := encClamp_getFl hd hring
  have hwidth : (encClamp (encWalk Config.walkBound (encStart v d r))).getFs = ringWidth d (encRing v d) := by
    rw [Regs.getFs, encClamp_fs]
    exact hring.width
  have hb := ringBase_le (d := d) (by omega) (by omega) (encRing v d)
  have hb' := ringBase_monotone (d := d) (by omega) (by omega) (encRing v d).zero_le
  have hw := ringWidth_le (d := d) (by omega) (by omega) (encRing v d)
  have hpos := hring.nonempty
  rw [ringBase_zero] at hb'
  rw [encRegs, shiftBySign, encClamp_s, encWalk_encStart_s lo hi, encLow]
  by_cases hneg : v < 0
  · rw [if_pos (decide_eq_true hneg), if_pos hneg, hbase, hwidth]
    exact getFl_setFl _ (by omega) (by omega)
  · rw [if_neg (by simpa using hneg), if_neg hneg, hbase]

/-- The ends of the interval fit their 16-bit fields, also where the upper one passes the total, and it is never empty. -/
theorem encInterval_bounds : 0 ≤ encLow v d ∧ encLow v d < encHigh v d ∧ encHigh v d < 65536 := by
  obtain ⟨hlow, hpos, hhigh⟩ := encRegs_interval hd v Regs.reset
  rw [encRegs_getFl lo hi hd] at hlow hhigh
  rw [encRegs_getFs lo hi hd] at hpos hhigh
  unfold encHigh
  omega

theorem toNat_word16_encLow : ((word16 (encLow v d)).toNat : Int) = encLow v d := by
  have h := encInterval_bounds lo hi hd
  exact toNat_word16 (by omega) (by omega)

theorem toNat_word16_encHigh : ((word16 (encHigh v d)).toNat : Int) = encHigh v d := by
  have h := encInterval_bounds lo hi hd
  exact toNat_word16 (by omega) (by omega)

/-- With willing agents LAPENC makes its one request and answers DONE, 0 (R58, R64). -/
theorem exec_lapenc {s : State} (h : Willing s) :
    exec (.lapenc v d) s = .next
      { finished s (encRegs v d s.regs) [.rcreqTaken (requestWord (encRequest v d)), .rspTaken (responseWord ⟨.done, 0#32⟩)] with
        rangeCoder := rangeCoderAfter s.rangeCoder (encRequest v d) } := by
  rw [exec_valid (i := .lapenc v d) hd, started, settle_rcEncode (by exact h), encRegs_getFl lo hi hd, encRegs_getFs lo hi hd]
  rfl

theorem lapenc_trace {s : State} (h : Willing s) :
    ∃ t, exec (.lapenc v d) s = .next t ∧
      t.trace = s.trace ++ [.rcreqTaken (requestWord (encRequest v d)), .rspTaken (responseWord ⟨.done, 0#32⟩)] :=
  ⟨_, exec_lapenc lo hi hd h, rfl⟩

end

/-- A value other than 0 comes to ring 0 only where that is the one ring there is (R66 item 3). -/
theorem ringCount_eq_one_of_encRing {v : Int} {d : Nat} (hd : d < 16384) (hring : encRing v d = 0) (hv : v ≠ 0) : ringCount d = 1 := by
  have hcount := ringCount_pos (d := d) (by omega) (by omega)
  unfold encRing at hring
  omega

/-- Settles O21: the registers end at the ring of the magnitude, in the half of the sign, and the ends of the interval fit 16 bits. -/
theorem lapencEmitsClosedForm : Obligations.LapencEmitsClosedForm := by
  intro v d s lo hi hd h m
  have hm : encRing v d = m := rfl
  have hlow := toNat_word16_encLow lo hi hd
  have hhigh := toNat_word16_encHigh lo hi hd
  refine ⟨(encWalk_encStart_counts lo hi hd s.regs).1, encRegs v d s.regs, _, _, _, exec_lapenc lo hi hd h,
    ?zeroNonneg, ?zeroNeg, ?pos, ?neg⟩ <;> rw [hlow, hhigh, encHigh]
  case zeroNonneg =>
    intro hzero hv
    rw [encLow_of_nonneg hv, hm, hzero, ringBase_zero, ringWidth_zero]
    exact ⟨rfl, zero_add _⟩
  case zeroNeg =>
    intro hzero hv
    rw [encLow_of_neg hv, hm, hzero, ringBase_zero, ringWidth_zero]
    exact ⟨ringCount_eq_one_of_encRing hd hzero (by omega), by omega, by omega⟩
  case pos =>
    intro _ hv
    rw [encLow_of_nonneg hv.le, hm]
    exact ⟨rfl, rfl⟩
  case neg =>
    intro hone hv
    rw [encLow_of_neg hv, hm, ringBase_succ _ hone]
    omega

/-! ## Magnitudes past the last ring (R66 item 2) -/

/-- Values of one sign and one ring are encoded alike. -/
theorem encRequest_congr {v v' : Int} {d : Nat} (hring : encRing v d = encRing v' d) (hsign : v < 0 ↔ v' < 0) :
    encRequest v d = encRequest v' d := by
  simp only [encRequest, encHigh, encLow, hring, hsign]

/-- What LAPENC emits and answers depends on its request alone. -/
theorem lapenc_trace_eq {v v' : Int} {d : Nat} {s : State} (hv : v.natAbs ≤ 2147483647) (hv' : v'.natAbs ≤ 2147483647) (hd : d < 16384)
    (h : Willing s) (hring : encRing v d = encRing v' d) (hsign : v < 0 ↔ v' < 0) :
    ∃ t u, exec (.lapenc v d) s = .next t ∧ exec (.lapenc v' d) s = .next u ∧ t.trace = u.trace := by
  obtain ⟨t, hexec, htrace⟩ := lapenc_trace (v := v) (by omega) (by omega) hd h
  obtain ⟨u, hexec', htrace'⟩ := lapenc_trace (v := v') (by omega) (by omega) hd h
  exact ⟨t, u, hexec, hexec', by rw [htrace, htrace', encRequest_congr hring hsign]⟩

/-- Every magnitude from `K - 1` on comes to the last ring of non-zero width. -/
theorem encRing_eq_last {v : Int} {d : Nat} (h : ringCount d - 1 ≤ v.natAbs) : encRing v d = ringCount d - 1 := min_eq_right h

/-- Settles O22: the magnitudes `n` and `K - 1` come to the same ring. -/
theorem lapencSaturates : Obligations.LapencSaturates := by
  intro n d s hn hd h hcount hsat
  constructor
  · have hlarge : encRing n d = ringCount d - 1 := encRing_eq_last (by omega)
    have hlast : encRing ((ringCount d : Int) - 1) d = ringCount d - 1 := encRing_eq_last (by omega)
    exact lapenc_trace_eq (by omega) (by omega) hd h (hlarge.trans hlast.symm) (by omega)
  · have hlarge : encRing (-n) d = ringCount d - 1 := encRing_eq_last (by omega)
    have hlast : encRing (1 - (ringCount d : Int)) d = ringCount d - 1 := encRing_eq_last (by omega)
    exact lapenc_trace_eq (by omega) (by omega) hd h (hlarge.trans hlast.symm) (by omega)

/-! ## The one breach of the range coder's precondition (R66 items 3 and 5, R95) -/

theorem rangeCoderAfter_inContract_iff (q : Request) : rangeCoderAfter .inContract q = .inContract ↔ preconditionHolds q = true := by
  by_cases hq : preconditionHolds q = true
  · simp [rangeCoderAfter_kept hq, hq]
  · simp [rangeCoderAfter_stopped hq, hq]

/-- At decay 0 there is ring 0 alone. -/
theorem encRing_decay_zero (v : Int) : encRing v 0 = 0 := by
  have hcount : ringCount (0 : Nat) = 1 := (ringCount_eq_one_iff (by omega) (by omega)).mpr (.inl rfl)
  rw [encRing, hcount, Nat.sub_self, Nat.min_zero]

/-- Every ring but ring 0 ends within the total, and so do both its halves. -/
theorem encHigh_le_of_encRing_pos {v : Int} {d : Nat} (hd : d < 16384) (hpos : 1 ≤ encRing v d) : encHigh v d ≤ 32767 := by
  have hw := ringWidth_nonneg (d := d) (by omega) (by omega) (encRing v d)
  have hnext := ringBase_le (d := d) (by omega) (by omega) (encRing v d + 1)
  rw [ringBase_succ _ hpos] at hnext
  rcases lt_or_ge v 0 with hv | hv
  · rw [encHigh, encLow_of_neg hv]
    omega
  · rw [encHigh, encLow_of_nonneg hv]
    omega

/-- A negative value in ring 0 takes the place behind it, which passes the total at decay 0 and not at decay 16383, the other decay
of one ring. -/
theorem encHigh_le_iff {v : Int} {d : Nat} (hd : d < 16384) : encHigh v d ≤ 32767 ↔ ¬ (d = 0 ∧ v < 0) := by
  rcases Nat.eq_zero_or_pos (encRing v d) with hzero | hpos
  · obtain ⟨-, hle, hgreatest, hleast⟩ := startFreqRange.1 d hd
    rcases lt_or_ge v 0 with hv | hv
    · have hone := (ringCount_eq_one_iff (d := d) (by omega) (by omega)).mp (ringCount_eq_one_of_encRing hd hzero (by omega))
      rw [encHigh, encLow_of_neg hv, hzero, ringBase_zero, ringWidth_zero]
      omega
    · rw [encHigh, encLow_of_nonneg hv, hzero, ringBase_zero, ringWidth_zero]
      omega
  · refine iff_of_true (encHigh_le_of_encRing_pos hd hpos) fun ⟨h0, _⟩ => ?_
    rw [h0, encRing_decay_zero] at hpos
    exact hpos.false

theorem preconditionHolds_encRequest {v : Int} {d : Nat} (lo : -2147483648 ≤ v) (hi : v ≤ 2147483647) (hd : d < 16384) :
    preconditionHolds (encRequest v d) = true ↔ ¬ (d = 0 ∧ v < 0) := by
  have hlow := toNat_word16_encLow lo hi hd
  have hhigh := toNat_word16_encHigh lo hi hd
  obtain ⟨-, hlt, -⟩ := encInterval_bounds lo hi hd
  have htotal : (32767#16 : Word16).toNat = 32767 := rfl
  rw [encRequest, preconditionHolds_encInterval, ← encHigh_le_iff hd]
  omega

/-- The interval of every negative value at decay 0, 32767 to 65534 (R66 item 3). -/
theorem encRequest_decay_zero {v : Int} (hv : v < 0) : encRequest v 0 = .encInterval 32767#16 65534#16 32767#16 := by
  rw [encRequest, encHigh, encLow_of_neg hv, encRing_decay_zero]
  rfl

/-- Settles O23: the range coder stops where the interval passes the total, which is the upper half of ring 0 at decay 0. -/
theorem contractBrokenOnlyAtDecayZero : Obligations.ContractBrokenOnlyAtDecayZero := by
  intro v d s lo hi hd h
  have hrc : s.rangeCoder = .inContract := h.1.2
  refine ⟨_, exec_lapenc lo hi hd h, ?broken, ?emitted⟩
  case broken =>
    simp only [ContractKept]
    rw [hrc, rangeCoderAfter_inContract_iff, preconditionHolds_encRequest lo hi hd, not_not]
  case emitted =>
    rintro rfl hv
    rw [encRequest_decay_zero hv]
    rfl

end Sys2Proof.Machine

/-! # The walk of LAPDEC, its value and its update, and its waiting for the answer

Proofs about spec/42_decoder.md: the ring in which the walk ends (R70), the sign and the guard (R71, R72), the closed form (R74) with the
guarantees that follow from it (R76), and the wait for the answer to the query (R68). -/

namespace Sys2Proof.Machine

/-! ## The iterations of the walk (R70) -/

/-- The registers of LAPDEC in its walk, at ring `k` after as many iterations, for the answer `p`. -/
structure DecCounted (d k : Nat) (p : Int) (r : Regs) : Prop extends DecAtRing d k r where
  count : r.getVal = k
  answer : r.getFm = p

theorem decStart_counted {d : Nat} {r : Regs} (hd : d < 16384) (fm : Word16) (h : r.getDecay = d) :
    DecCounted d 0 fm.toNat (decStart fm r) :=
  ⟨decStart_atRing hd fm h, rfl, getFm_setFm r fm⟩

theorem decAdvance_counted {d k : Nat} {p : Int} {r : Regs} (hd : d < 16384) (hk : k < 32768) (h : DecCounted d k p r) :
    DecCounted d (k + 1) p (decAdvance r) := by
  have hval : (decAdvance r).val = twos32 (r.getVal + 1) := rfl
  refine ⟨decAdvance_atRing hd h.toDecAtRing, ?count, h.answer⟩
  case count =>
    rw [Regs.getVal, hval, h.count, sint32_twos32 (by omega) (by omega)]
    rfl

theorem decWalk_done {r : Regs} (n : Nat) (h : ¬ (r.getFh ≤ r.getFm ∧ r.getFs ≠ 0)) : decWalk (n + 1) r = r := if_neg h

theorem decWalk_goesOn {r : Regs} (n : Nat) (hreached : r.getFh ≤ r.getFm) (hwidth : r.getFs ≠ 0) :
    decWalk (n + 1) r = decWalk n (decAdvance r) := if_pos ⟨hreached, hwidth⟩

/-- With enough rounds left, the walk goes on from ring `k` to the ring `m` of the answer, or, on the tail, to ring `K`, the first of
width zero. -/
theorem decWalk_counted {d m : Nat} {p : Int} (hd : d < 16384) (hm : m ≤ ringCount d) (hlow : ringBase d m ≤ p)
    (hhigh : m < ringCount d → p < ringBase d (m + 1)) (n : Nat) {k : Nat} {r : Regs} (h : DecCounted d k p r) (hk : k ≤ m)
    (hn : m ≤ n + k) : DecCounted d m p (decWalk n r) := by
  have hmono : Monotone (ringBase d) := ringBase_monotone (by omega) (by omega)
  have hbound := ringCount_le_walkBound hd
  have hbound' : Config.walkBound = 32767 := rfl
  induction n generalizing k r with
  | zero =>
    obtain rfl : k = m := by omega
    exact h
  | succ n ih =>
    obtain rfl | hbefore := Nat.eq_or_lt_of_le hk
    · have hend : ¬ (r.getFh ≤ r.getFm ∧ r.getFs ≠ 0) := by
        rw [h.high, h.answer, h.width]
        rintro ⟨hpassed, hwidth⟩
        obtain hlast | rfl := Nat.lt_or_eq_of_le hm
        · exact absurd hpassed (not_le.mpr (hhigh hlast))
        · exact hwidth (ringWidth_ringCount (by omega) (by omega))
      rw [decWalk_done n hend]
      exact h
    · have hpos := ringWidth_pos (d := d) (k := k) (by omega) (by omega) (by omega)
      have hreached : r.getFh ≤ r.getFm := by
        rw [h.high, h.answer]
        exact (hmono hbefore).trans hlow
      rw [decWalk_goesOn n hreached (by rw [h.width]; omega)]
      exact ih (decAdvance_counted hd (by omega) h) hbefore (by omega)

theorem decWalked_counted {d m : Nat} {fm : Word16} (hd : d < 16384) (hm : m ≤ ringCount d) (hlow : ringBase d m ≤ (fm.toNat : Int))
    (hhigh : m < ringCount d → (fm.toNat : Int) < ringBase d (m + 1)) (r : Regs) :
    DecCounted d m fm.toNat (decWalked fm (loadDecay d r)) :=
  decWalk_counted hd hm hlow hhigh Config.walkBound (decStart_counted hd fm (getDecay_loadDecay hd r)) m.zero_le
    (hm.trans (ringCount_le_walkBound hd))

/-! ## The sign and the guard (R71, R72) -/

/-- VAL holds the value `v`, and FL and FH the interval from `low` to `high`. -/
structure HoldsResult (r : Regs) (v low high : Int) : Prop where
  val : r.getVal = v
  low : r.getFl = low
  high : r.getFh = high

/-- The position that the sign test compares the answer with. -/
theorem DecCounted.middle {d k : Nat} {p : Int} {r : Regs} (h : DecCounted d k p r) :
    r.getFl + r.getFs = ringBase d k + ringWidth d k := by
  rw [h.low, h.width]

theorem decSign_ringZero {d : Nat} {p : Int} {r : Regs} (h : DecCounted d 0 p r) : HoldsResult (decSign r) 0 0 (startFreq d) := by
  have hlow : r.getFl = 0 := h.low
  rw [decSign, if_neg (by omega)]
  exact ⟨h.count, hlow, h.high⟩

section
variable {d k : Nat} (hd : d < 16384) (hk : 1 ≤ k)
include hd hk

/-- Every ring but ring 0 has the start frequency below it. -/
theorem ringBase_pos : 1 ≤ ringBase d k := by
  have hfirst := ringBase_monotone (d := d) (by omega) (by omega) hk
  have hfreq := startFreq_pos (d := d) (by omega) (by omega)
  rw [ringBase_one] at hfirst
  omega

/-- The sign test is made in every ring but ring 0. -/
theorem DecCounted.testMade {p : Int} {r : Regs} (h : DecCounted d k p r) : 0 < r.getFl := by
  have hpos := ringBase_pos hd hk
  rw [h.low]
  omega

/-- An answer in the lower half of its ring: a positive value. -/
theorem decSign_lowerHalf {p : Int} {r : Regs} (h : DecCounted d k p r) (hp : p < ringBase d k + ringWidth d k) :
    HoldsResult (decSign r) k (ringBase d k) (ringBase d k + ringWidth d k) := by
  have hpos := ringBase_pos hd hk
  have hw := ringWidth_nonneg (d := d) (by omega) (by omega) k
  have hb := ringBase_le (d := d) (by omega) (by omega) (k + 1)
  have hsucc := ringBase_succ d hk
  have htest : ¬ r.getFl + r.getFs ≤ r.getFm := by
    rw [h.middle, h.answer]
    omega
  rw [decSign, if_pos (h.testMade hd hk), if_neg htest]
  refine ⟨h.count, h.low, ?high⟩
  case high =>
    rw [h.high, h.width, getFh_setFh _ (by omega) (by omega)]
    omega

/-- An answer in the upper half of its ring, or on the tail: a negative value. -/
theorem decSign_upperHalf {p : Int} {r : Regs} (hcount : k ≤ ringCount d) (h : DecCounted d k p r)
    (hp : ringBase d k + ringWidth d k ≤ p) :
    HoldsResult (decSign r) (-k) (ringBase d k + ringWidth d k) (ringBase d (k + 1)) := by
  have hpos := ringBase_pos hd hk
  have hw := ringWidth_nonneg (d := d) (by omega) (by omega) k
  have hb := ringBase_le (d := d) (by omega) (by omega) (k + 1)
  have hsucc := ringBase_succ d hk
  have hbound := ringCount_le_walkBound hd
  have hbound' : Config.walkBound = 32767 := rfl
  have htest : r.getFl + r.getFs ≤ r.getFm := by rwa [h.middle, h.answer]
  rw [decSign, if_pos (h.testMade hd hk), if_pos htest, h.count, h.middle]
  exact ⟨sint32_twos32 (by omega) (by omega), getFl_setFl _ (by omega) (by omega), h.high⟩

end

/-- The guard leaves an interval that is not empty. -/
theorem HoldsResult.decGuard_of_lt {r : Regs} {v low high : Int} (h : HoldsResult r v low high) (hlt : low < high) :
    HoldsResult (decGuard r) v low high ∧ r.fl ≠ r.fh := by
  have hne : r.getFl ≠ r.getFh := by
    rw [h.low, h.high]
    omega
  rw [decGuard, if_neg hne]
  exact ⟨h, fun heq => hne (congrArg sint32 heq)⟩

/-- The guard opens an empty interval downwards. -/
theorem HoldsResult.decGuard_of_eq {r : Regs} {v low : Int} (h : HoldsResult r v low low) (h0 : 1 ≤ low) (h1 : low ≤ 32767) :
    HoldsResult (decGuard r) v (low - 1) low ∧ r.fl = r.fh := by
  have heq : r.getFl = r.getFh := h.low.trans h.high.symm
  rw [decGuard, if_pos heq, h.low]
  exact ⟨⟨h.val, getFl_setFl _ (by omega) (by omega), h.high⟩, BitVec.eq_of_toInt_eq heq⟩

/-! ## The closed form (R74) -/

/-- The update that LAPDEC offers when its query is answered with `fm`. -/
def decRequest (fm : Word16) (r : Regs) : Request :=
  .decUpdate (word16 (decRegs fm r).getFl) (word16 (decRegs fm r).getFh) 32767#16

/-- With willing agents and an answer LAPDEC makes its query and its update, which the range coder can take, and answers DONE (R67). -/
theorem exec_lapdec {d : Nat} {fm : Word16} {rest : List Word16} {s : State} (hd : d < 16384) (h : Willing s) (ho : s.oracle = fm :: rest) :
    exec (.lapdec d) s = .next
      { finished s (decRegs fm (loadDecay d s.regs)) [.rcreqTaken (requestWord (.decFreq 32767#16)), .rcrspTaken fm,
          .rcreqTaken (requestWord (decRequest fm (loadDecay d s.regs))),
          .rspTaken (responseWord ⟨.done, (decRegs fm (loadDecay d s.regs)).val⟩)] with oracle := rest } := by
  have hupdate := decRegs_updateFits hd (getDecay_loadDecay hd s.regs) fm
  have hkept := rangeCoderAfter_kept (rc := s.rangeCoder) (preconditionHolds_of_updateFits hupdate)
  rw [exec_valid (i := .lapdec d) hd, started, settle_rcDecodeFreq_answered (by exact h) (by exact ho)]
  simp only [State.mapRegs_regs, State.mapRegs_rangeCoder, hkept]
  rfl

/-- Settles O26: the walk ends at the ring of the answer, or at ring `K` on the tail, where the upper half is empty and the guard
opens it. -/
theorem lapdecClosedForm : Obligations.LapdecClosedForm := by
  intro d fm rest s hd h ho p w testMade testTrue guardFires
  have hcountPos := ringCount_pos (d := d) (by omega) (by omega)
  obtain ⟨hlow, hlt, hhigh⟩ := decRegs_interval hd fm (getDecay_loadDecay hd s.regs)
  refine ⟨decRegs fm (loadDecay d s.regs), _, _, _, exec_lapdec hd h ho, ?ringZero, ?lowerHalf, ?upperHalf, ?tail⟩ <;>
    rw [toNat_word16 hlow (by omega), toNat_word16 (by omega) (by omega)]
  case ringZero =>
    intro hp
    have hring : DecCounted d 0 p w := decWalked_counted hd (Nat.zero_le _) (Int.natCast_nonneg _) (fun _ => hp) s.regs
    obtain ⟨hresult, hclosed⟩ := (decSign_ringZero hring).decGuard_of_lt (startFreq_pos (by omega) (by omega))
    exact ⟨hresult.val, hresult.low, hresult.high, hring.count, hring.low.not_gt, hclosed⟩
  case lowerHalf =>
    intro k hk hcount hbase hp
    have hwidth := ringWidth_pos (d := d) (by omega) (by omega) hcount
    have hnext := ringBase_succ d hk
    have hring : DecCounted d k p w := decWalked_counted hd hcount.le hbase (fun _ => by omega) s.regs
    have hfalse : ¬ testTrue := hring.middle.trans_gt hp |>.not_ge
    obtain ⟨hresult, hclosed⟩ := (decSign_lowerHalf hd hk hring hp).decGuard_of_lt (by omega)
    exact ⟨hresult.val, hresult.low, hresult.high, hring.count, hring.testMade hd hk, hfalse, hclosed⟩
  case upperHalf =>
    intro k hk hcount hhalf hp
    have hwidth := ringWidth_pos (d := d) (by omega) (by omega) hcount
    have hnext := ringBase_succ d hk
    have hring : DecCounted d k p w := decWalked_counted hd hcount.le (by omega) (fun _ => hp) s.regs
    have htrue : testTrue := hring.middle.trans_le hhalf
    obtain ⟨hresult, hclosed⟩ := (decSign_upperHalf hd hk hcount.le hring hhalf).decGuard_of_lt (by omega)
    exact ⟨hresult.val, hresult.low, hresult.high, hring.count, hring.testMade hd hk, htrue, hclosed⟩
  case tail =>
    intro hmass
    have hring : DecCounted d (ringCount d) p w := decWalked_counted hd le_rfl hmass (fun hlt => absurd hlt (lt_irrefl _)) s.regs
    have hmiddle : ringBase d (ringCount d) + ringWidth d (ringCount d) = ringMass d := by
      rw [ringWidth_ringCount (by omega) (by omega), add_zero, ringMass]
    have hend : ringBase d (ringCount d + 1) = ringMass d := ringBase_eq_ringMass (by omega) (by omega) (Nat.le_succ _)
    have htrue : testTrue := (hring.middle.trans hmiddle).trans_le hmass
    have hsign := decSign_upperHalf hd hcountPos le_rfl hring (hmiddle.trans_le hmass)
    rw [hmiddle, hend] at hsign
    obtain ⟨hresult, hopened⟩ := hsign.decGuard_of_eq (ringMass_pos (by omega) (by omega)) (ringBase_le (by omega) (by omega) _)
    exact ⟨hresult.val, hresult.low, hresult.high, hring.count, hring.testMade hd hcountPos, htrue, hopened⟩

/-! ## LAPDEC ends with a legal update (R76) -/

/-- Every answer falls in one row of the closed form: ring 0, one half of another ring, or the tail. -/
theorem answer_row_cases {d : Nat} {p : Int} (hp : 0 ≤ p) :
    p < startFreq d ∨
    (∃ k, 1 ≤ k ∧ k < ringCount d ∧ ringBase d k ≤ p ∧ p < ringBase d k + ringWidth d k) ∨
    (∃ k, 1 ≤ k ∧ k < ringCount d ∧ ringBase d k + ringWidth d k ≤ p ∧ p < ringBase d (k + 1)) ∨
    ringMass d ≤ p := by
  by_cases hmass : ringMass d ≤ p
  · exact .inr (.inr (.inr hmass))
  · obtain ⟨k, hcount, hbase, hnext⟩ := exists_ring (n := ringCount d) hp (not_le.mp hmass)
    rcases Nat.eq_zero_or_pos k with rfl | hk
    · exact .inl hnext
    · rcases lt_or_ge p (ringBase d k + ringWidth d k) with hlower | hupper
      · exact .inr (.inl ⟨k, hk, hcount, hbase, hlower⟩)
      · exact .inr (.inr (.inl ⟨k, hk, hcount, hupper, hnext⟩))

/-- Settles O27: what each row of the closed form says of the iterations, the value and the update. -/
theorem lapdecNeverFails : Obligations.LapdecNeverFails := by
  intro d fm rest s hd h ho
  obtain ⟨r, low, high, val, hexec, hringZero, hlowerHalf, hupperHalf, htail⟩ := lapdecClosedForm d fm rest s hd h ho
  obtain ⟨hcountLe, -⟩ := ringCountBounds.1 d hd
  have hcountPos := ringCount_pos (d := d) (by omega) (by omega)
  obtain ⟨hmassPos, hmassLe, hbaseLe⟩ := ringMassAtMostTotal d hd
  suffices hbounds : (decWalked fm (loadDecay d s.regs)).val.toInt ≤ ringCount d ∧ low.toNat < high.toNat ∧
      (high.toNat : Int) ≤ ringMass d ∧ -(ringCount d : Int) ≤ val.toInt ∧ val.toInt ≤ ringCount d - 1 by
    obtain ⟨hsteps, hlt, hle, hleast, hmost⟩ := hbounds
    exact ⟨hsteps, hcountLe, _, low, high, val, hexec, rfl, rfl, hlt, hle, hmassLe, hleast, hmost, by omega, by omega⟩
  rcases answer_row_cases (d := d) (Int.natCast_nonneg fm.toNat) with
    hp | ⟨k, hk, hcount, hbase, hp⟩ | ⟨k, hk, hcount, hbase, hp⟩ | hp
  · obtain ⟨hval, hlow, hhigh, hsteps, -⟩ := hringZero hp
    have hfreq := startFreq_pos (d := d) (by omega) (by omega)
    have hmass := hbaseLe 1
    rw [ringBase_one] at hmass
    omega
  · obtain ⟨hval, hlow, hhigh, hsteps, -⟩ := hlowerHalf k hk hcount hbase hp
    have hwidth := ringWidth_pos (d := d) (by omega) (by omega) hcount
    have hmass := hbaseLe (k + 1)
    rw [ringBase_succ d hk] at hmass
    omega
  · obtain ⟨hval, hlow, hhigh, hsteps, -⟩ := hupperHalf k hk hcount hbase hp
    have hmass := hbaseLe (k + 1)
    omega
  · obtain ⟨hval, hlow, hhigh, hsteps, -⟩ := htail hp
    omega

/-! ## The wait for the answer (R68, R106) -/

/-- With a range coder that takes the query and has no answer, LAPDEC waits, with DECAY loaded and the query emitted. -/
theorem exec_lapdec_waits {d : Nat} {s : State} (hd : d < 16384) (h : TakesRequests s) (hp : HostPrompt s) (ho : s.oracle = []) :
    exec (.lapdec d) s = .next { s with
      mode := .waitFm
      request := none
      regs := loadDecay d s.regs
      trace := s.trace ++ [.rcreqTaken (requestWord (.decFreq 32767#16))] } := by
  rw [exec_valid (i := .lapdec d) hd, started, settle_rcDecodeFreq_waits (by exact h) (by exact hp) (by exact ho)]
  rfl

/-- A step of a LAPDEC that waits and for which nothing arrives. -/
theorem step_waiting {s : State} (hm : s.mode = .waitFm) (hr : s.request = none) (ho : s.oracle = []) (hi : s.inputs = [])
    (hp : HostPrompt s) : step s = .next s := by
  rw [step_in_progress (by simp [hm]) hi, settle_of_advance_eq (advance_waiting hr hm ho) hp]

/-- Settles O28: the query is taken and nothing else moves. -/
theorem lapdecWaitsForAnswer : Obligations.LapdecWaitsForAnswer := by
  intro d s hd h hp ho hi
  refine ⟨loadDecay d s.regs, exec_lapdec_waits hd h hp ho, rfl, ?decay, step_waiting rfl rfl ho hi hp⟩
  case decay => simp only [loadDecay, Regs.setDecay_decay, BitVec.toNat_ofNat, Nat.mod_eq_of_lt (by omega : d < 2 ^ 16)]

/-- A command that is answered by three transfers ends the same if the first of them was made before. -/
theorem settle_advance_of_answered {s u : State} {status : Status} {result : Word32}
    (h : advance (advance (advance s)) = respond status result u) : settle (advance s) = settle s := by
  simp only [settle, h, advance_respond]

/-- Settles O29: the LAPDEC that waits has made its first transfer, and the move goes on from there to the same answer. -/
theorem lateAnswerChangesNothing : Obligations.LateAnswerChangesNothing := by
  intro d fm rest s hd h ho hi
  have hprompt : HostPrompt s := fun _ => h.2.2
  have hready : TakesRequests ({ s with oracle := fm :: rest } : State) := h.1
  obtain ⟨result, u, hanswer, -⟩ := transfers_answer (.lapdec d) hready (List.cons_ne_nil fm rest)
  refine ⟨_, settle (started (.lapdec d) { s with oracle := fm :: rest }), exec_lapdec_waits hd h.1 hprompt ho, ?late,
    exec_valid (i := .lapdec d) hd _⟩
  case late =>
    rw [step_in_progress (by simp) (by exact hi), ← settle_advance_of_answered hanswer, started, advance_rcDecodeFreq (by exact hready)]
    rfl

end Sys2Proof.Machine

/-! # Properties of both commands together

Proofs about spec/43_properties.md: the two signs of one magnitude (R78), what LAPENC encodes read back by LAPDEC (R77, R80, R83), and
the widths as iterated floors (R84). -/

namespace Sys2Proof.Machine

/-! ## One half of a ring for each sign (R78) -/

theorem encRing_neg (v : Int) (d : Nat) : encRing (-v) d = encRing v d := by
  rw [encRing, encRing, Int.natAbs_neg]

/-- The negative value's interval begins where the positive one's ends. -/
theorem encLow_neg {v : Int} (hv : 0 < v) (d : Nat) : encLow (-v) d = encHigh v d := by
  rw [encHigh, encLow_of_neg (by omega), encLow_of_nonneg hv.le, encRing_neg]

theorem encRequest_neg {v : Int} (hv : 0 < v) (d : Nat) :
    encRequest (-v) d = .encInterval (word16 (encHigh v d)) (word16 (encHigh (-v) d)) 32767#16 := by
  rw [encRequest, encLow_neg hv]

/-- Settles O24: both values come to the same ring, whose lower half the positive one takes and whose upper half the negative one. -/
theorem signSymmetry : Obligations.SignSymmetry := by
  intro n d s hpos hn hd h m
  obtain ⟨t, hexec, htrace⟩ := lapenc_trace (v := n) (by omega) (by omega) hd h
  obtain ⟨u, hexec', htrace'⟩ := lapenc_trace (v := -n) (by omega) (by omega) hd h
  rw [encRequest_neg (by omega)] at htrace'
  have hlow : ((word16 (encLow n d)).toNat : Int) = ringBase d m := by
    rw [toNat_word16_encLow (by omega) (by omega) hd, encLow_of_nonneg (by omega)]
    rfl
  have hmid : ((word16 (encHigh n d)).toNat : Int) = ringBase d m + ringWidth d m := by
    rw [toNat_word16_encHigh (by omega) (by omega) hd, encHigh, encLow_of_nonneg (by omega)]
    rfl
  have hhigh : ((word16 (encHigh (-n) d)).toNat : Int) = ringBase d m + 2 * ringWidth d m := by
    rw [toNat_word16_encHigh (by omega) (by omega) hd, encHigh, encLow_of_neg (by omega), encRing_neg, add_assoc, ← two_mul]
    rfl
  have hcount := ringCount_pos (d := d) (by omega) (by omega)
  have hwidth : 1 ≤ ringWidth d m := ringWidth_pos (by omega) (by omega) (by omega)
  refine ⟨t, u, _, _, _, hexec, htrace, hexec', htrace', by omega, by omega, by omega, fun _ => ⟨hlow, hmid, hhigh⟩, ?oneRing⟩
  case oneRing =>
    intro hzero
    have hone : ringCount d = 1 := by omega
    have hends := (ringCount_eq_one_iff (d := d) (by omega) (by omega)).mp hone
    rw [hzero, ringBase_zero, ringWidth_zero] at hmid hhigh
    rw [hzero, ringBase_zero] at hlow
    exact ⟨hone, by omega, hlow, by omega, by omega⟩

/-! ## What LAPENC encodes, LAPDEC decodes (R77, R80, R83) -/

/-- The value clamped to the magnitude of the last ring of non-zero width: what the interval of `v` stands for (R77, R80). -/
def encClamped (v : Int) (d : Nat) : Int := if v < 0 then -(encRing v d : Int) else encRing v d

theorem encRing_lt_ringCount {d : Nat} (hd : d < 16384) (v : Int) : encRing v d < ringCount d := by
  have hcount := ringCount_pos (d := d) (by omega) (by omega)
  unfold encRing
  omega

/-- A magnitude below `K` is its own ring. -/
theorem encRing_of_lt {v : Int} {d : Nat} (h : v.natAbs < ringCount d) : encRing v d = v.natAbs := min_eq_left (by omega)

theorem encClamped_of_lt {v : Int} {d : Nat} (h : v.natAbs < ringCount d) : encClamped v d = v := by
  rw [encClamped, encRing_of_lt h]
  split <;> omega

/-- A field that reads as `v` holds the word of `v`. -/
theorem eq_word16_of_toNat {x : Word16} {v : Int} (h : (x.toNat : Int) = v) : x = word16 v := by
  rw [← h, word16, BitVec.ofInt_natCast, BitVec.ofNat_toNat, BitVec.setWidth_eq]

/-- An answer inside the interval of `v` stands in the row of the closed form for that half of that ring, and LAPDEC updates with the
interval itself. A negative value in ring 0 is excluded: its interval lies behind that ring (R66 item 3). -/
theorem lapdec_of_encInterval {v : Int} {d : Nat} {fm : Word16} {rest : List Word16} {s : State} (hd : d < 16384)
    (hring : 0 ≤ v ∨ 1 ≤ encRing v d) (h : Willing s) (ho : s.oracle = fm :: rest) (hlow : encLow v d ≤ (fm.toNat : Int))
    (hhigh : (fm.toNat : Int) < encHigh v d) :
    ∃ (t : State) (val : Word32), exec (.lapdec d) s = .next t ∧ val.toInt = encClamped v d ∧
      t.trace = s.trace ++ [.rcreqTaken (requestWord (.decFreq 32767#16)), .rcrspTaken fm,
        .rcreqTaken (requestWord (.decUpdate (word16 (encLow v d)) (word16 (encHigh v d)) 32767#16)),
        .rspTaken (responseWord ⟨.done, val⟩)] := by
  obtain ⟨r, low, high, val, hexec, hringZero, hlowerHalf, hupperHalf, -⟩ := lapdecClosedForm d fm rest s hd h ho
  suffices hrow : val.toInt = encClamped v d ∧ (low.toNat : Int) = encLow v d ∧ (high.toNat : Int) = encHigh v d by
    obtain ⟨hval, hlow', hhigh'⟩ := hrow
    rw [← eq_word16_of_toNat hlow', ← eq_word16_of_toNat hhigh']
    exact ⟨_, val, hexec, hval, rfl⟩
  have hcount := encRing_lt_ringCount hd v
  rcases lt_or_ge v 0 with hneg | hnonneg
  · have hone : 1 ≤ encRing v d := by omega
    have hnext := ringBase_succ d hone
    rw [encHigh] at hhigh ⊢
    rw [encLow_of_neg hneg] at hlow hhigh ⊢
    obtain ⟨hval, hlow', hhigh', -⟩ := hupperHalf _ hone hcount hlow (by omega)
    exact ⟨by rw [hval, encClamped, if_pos hneg], hlow', by omega⟩
  · rw [encHigh] at hhigh ⊢
    rw [encLow_of_nonneg hnonneg] at hlow hhigh ⊢
    rw [encClamped, if_neg (by omega)]
    rcases Nat.eq_zero_or_pos (encRing v d) with hzero | hone
    · rw [hzero, ringBase_zero, ringWidth_zero, zero_add] at hhigh ⊢
      obtain ⟨hval, hlow', hhigh', -⟩ := hringZero hhigh
      exact ⟨hval, hlow', hhigh'⟩
    · obtain ⟨hval, hlow', hhigh', -⟩ := hlowerHalf _ hone hcount hlow hhigh
      exact ⟨hval, hlow', hhigh'⟩

/-- The value that LAPENC is given comes back clamped, with its interval, from every position of that interval. -/
theorem lapenc_lapdec {v : Int} {d : Nat} {s : State} (lo : -2147483648 ≤ v) (hi : v ≤ 2147483647) (hd : d < 16384)
    (hring : 0 ≤ v ∨ 1 ≤ encRing v d) (h : Willing s) :
    ∃ (t : State) (low high : Word16),
      exec (.lapenc v d) s = .next t ∧
      t.trace = s.trace ++ [.rcreqTaken (requestWord (.encInterval low high 32767#16)), .rspTaken (responseWord ⟨.done, 0#32⟩)] ∧
      low.toNat < high.toNat ∧ (high.toNat : Int) = encHigh v d ∧
      ∀ (fm : Word16) (rest : List Word16) (s' : State), low.toNat ≤ fm.toNat → fm.toNat < high.toNat → Willing s' → s'.oracle = fm :: rest →
        ∃ (t' : State) (val : Word32), exec (.lapdec d) s' = .next t' ∧ val.toInt = encClamped v d ∧
          t'.trace = s'.trace ++ [.rcreqTaken (requestWord (.decFreq 32767#16)), .rcrspTaken fm,
            .rcreqTaken (requestWord (.decUpdate low high 32767#16)), .rspTaken (responseWord ⟨.done, val⟩)] := by
  obtain ⟨t, hexec, htrace⟩ := lapenc_trace lo hi hd h
  have hlow := toNat_word16_encLow lo hi hd
  have hhigh := toNat_word16_encHigh lo hi hd
  obtain ⟨-, hlt, -⟩ := encInterval_bounds lo hi hd
  refine ⟨t, _, _, hexec, htrace, by omega, hhigh, ?decodes⟩
  case decodes =>
    intro fm rest s' hfrom hto h' ho
    exact lapdec_of_encInterval hd hring h' ho (by omega) (by omega)

/-- Settles O30: below `K` nothing is clamped. -/
theorem roundTrip : Obligations.RoundTrip := by
  intro v d s hd hv lo hi h
  have hring : 0 ≤ v ∨ 1 ≤ encRing v d := by
    rw [encRing_of_lt hv]
    omega
  obtain ⟨t, low, high, hexec, htrace, hlt, -, hdecodes⟩ := lapenc_lapdec lo hi hd hring h
  rw [encClamped_of_lt hv] at hdecodes
  exact ⟨t, low, high, hexec, htrace, hlt, hdecodes⟩

/-- Settles O31: the ring is the last of non-zero width, which with two rings or more is not ring 0 and ends within the total. -/
theorem saturatedRoundTrip : Obligations.SaturatedRoundTrip := by
  intro v d s hd hcount hv lo hi h
  have hlast : encRing v d = ringCount d - 1 := encRing_eq_last (by omega)
  have hring : 1 ≤ encRing v d := by omega
  have htotal := encHigh_le_of_encRing_pos hd hring
  have hclamped : encClamped v d = (if v < 0 then -1 else 1) * ((ringCount d : Int) - 1) := by
    rw [encClamped, hlast]
    split <;> omega
  obtain ⟨t, low, high, hexec, htrace, hlt, hhigh, hdecodes⟩ := lapenc_lapdec lo hi hd (.inr hring) h
  rw [hclamped] at hdecodes
  exact ⟨t, low, high, hexec, htrace, hlt, by omega, hdecodes⟩

/-! ## The widths are iterated floors (R84) -/

/-- At decay 8192 a shrink step halves the width. -/
theorem shrink_half (w : Int) : shrink w 8192 = w / 2 := by
  rw [shrink_eq]
  omega

/-- Halving and rounding down, step by step, is one division by the power of two. -/
theorem ringWidth_half (k : Nat) : ringWidth 8192 k = startFreq 8192 / 2 ^ k := by
  induction k with
  | zero => rw [ringWidth_zero, pow_zero, Int.ediv_one]
  | succ k ih => rw [ringWidth_succ, shrink_half, ih, Int.ediv_ediv_of_nonneg (by positivity), pow_succ]

/-- A single floor at decay 8192 is the same division. -/
theorem singleFloor_half (f : Int) (k : Nat) : f * 8192 ^ k / 16384 ^ k = f / 2 ^ k := by
  have hpow : (16384 : Int) ^ k = 2 ^ k * 8192 ^ k := by rw [← mul_pow, show (2 * 8192 : Int) = 16384 by rfl]
  rw [hpow, Int.mul_ediv_mul_of_pos_left _ _ (by positivity)]

/-- Settles O17: the named rings are computed, and at decay 8192 both ways to round are one division by `2^k`. -/
theorem iterationIsNotSingleFloor : Obligations.IterationIsNotSingleFloor := by
  refine ⟨by decide, by decide, by decide, by decide, by decide, by decide, by decide, by decide, by decide, by decide, ?half⟩
  case half =>
    intro k
    rw [ringWidth_half, singleFloor_half]

end Sys2Proof.Machine

/-! # Exceptional circumstances: a range coder that does not move or has stopped, and a run to its end

A wait and a stop are all the block can meet beside a command that is answered (R86, R91, R95); where neither lasts, every run ends
(R106, R107). -/

namespace Sys2Proof.Machine

/-! ## Waiting for a range coder that does not move -/

/-- Settles O40: in each of the three cases there is no transfer, and the move of the block is its transfers and the host's taking. -/
theorem stalledBlockWaits : Obligations.StalledBlockWaits := by
  intro s hm hi hp hstalled
  have hwaits : advance s = s := by
    rcases hstalled with ⟨hr, hunready⟩ | ⟨hr, hmode, ho⟩ | hstopped
    · obtain ⟨q, hq⟩ := Option.ne_none_iff_exists'.mp hr
      exact advance_untaken (fun ⟨hready, _⟩ => by simp [hunready] at hready) hq
    · exact advance_waiting hr hmode ho
    · exact advance_stopped hstopped
  rw [step_in_progress hm hi, settle_of_advance_eq hwaits hp]

/-! ## A range coder that has stopped transfers nothing -/

/-- A transfer with the range coder: on RCREQ or on RCRSP (R23). -/
def OnRangeCoder (e : Event) : Prop := (∃ w, e = .rcreqTaken w) ∨ ∃ fm, e = .rcrspTaken fm

/-- The host's transfers are on RSP. -/
theorem hostTakes_growsBy_offRangeCoder (s : State) : GrowsBy (¬ OnRangeCoder ·) s (hostTakes s) := by
  unfold hostTakes
  split
  · exact ⟨s.rsp.map fun r => .rspTaken (responseWord r), rfl, by simp [OnRangeCoder]⟩
  · exact growsBy_of_trace_eq rfl

theorem takeOldest_growsBy_offRangeCoder (s : State) : GrowsBy (¬ OnRangeCoder ·) s (takeOldest s) := by
  rcases hrsp : s.rsp with _ | ⟨r, rest⟩
  · exact growsBy_of_trace_eq (by rw [takeOldest_nil hrsp])
  · exact growsBy_of_trace_concat (e := .rspTaken (responseWord r)) (by rw [takeOldest_cons hrsp]; rfl) (by simp [OnRangeCoder])

/-- With a range coder that has stopped, a command in progress makes no transfer, and the host alone can move. -/
theorem settle_stopped {s : State} (h : ¬ ContractKept s) : settle s = hostTakes s := by
  simp only [settle, advance_stopped h]

/-- What a command does before its first transfer leaves the range coder alone. -/
@[simp] theorem started_rangeCoder (i : Instr) (s : State) : (started i s).rangeCoder = s.rangeCoder := by
  cases i <;> rfl

section
variable {s t : State} (h : ¬ ContractKept s)
include h

theorem settle_stopped_growsBy : GrowsBy (¬ OnRangeCoder ·) s (settle s) := by
  rw [settle_stopped h]
  exact hostTakes_growsBy_offRangeCoder s

/-- The word itself is transferred on CMD, and what it begins transfers nothing more. -/
theorem runWord_stopped_growsBy {w : Word64} (ht : runWord w s = .next t) : GrowsBy (¬ OnRangeCoder ·) s t := by
  have htaken : GrowsBy (¬ OnRangeCoder ·) s (takeCommand w s) :=
    growsBy_of_trace_concat (takeCommand_trace w s) (by simp [OnRangeCoder])
  refine htaken.trans ?_
  cases hw : decode w with
  | ok i =>
    simp only [runWord, hw] at ht
    obtain ⟨-, rfl⟩ := exec_next ht
    have hstopped : ¬ ContractKept (started i (takeCommand w s)) := by simpa [ContractKept] using h
    exact (growsBy_of_trace_eq (started_trace i _)).trans (settle_stopped_growsBy hstopped)
  | error e =>
    rw [runWord_illegal ⟨e, hw⟩] at ht
    cases ht
    exact (growsBy_of_trace_eq (respond_trace ..)).trans (settle_stopped_growsBy h)

theorem blockMove_stopped_growsBy (ht : blockMove s = .next t) : GrowsBy (¬ OnRangeCoder ·) s t := by
  unfold blockMove at ht
  split at ht
  case h_1 =>
    split at ht
    case h_1 w rest _ => exact runWord_stopped_growsBy (s := { s with cmd := rest }) h ht
    case h_2 => cases ht; exact hostTakes_growsBy_offRangeCoder s
  case h_2 => cases ht; exact settle_stopped_growsBy h

/-- Of what can arrive from outside, nothing is a transfer with the range coder, not even its being set up anew. -/
theorem applyInput_stopped_growsBy {e : Input} (ht : applyInput e s = .next t) : GrowsBy (¬ OnRangeCoder ·) s t := by
  cases e with
  | blockMoves => exact blockMove_stopped_growsBy h ht
  | rst => cases ht; exact growsBy_of_trace_concat (applyReset_trace s) (by simp [OnRangeCoder])
  | rspReady ready => cases ht; exact hostTakes_growsBy_offRangeCoder { s with rspReady := ready }
  | takeResponse => cases ht; exact takeOldest_growsBy_offRangeCoder s
  | command w => cases ht; exact growsBy_of_trace_eq rfl
  | answer fm => cases ht; exact growsBy_of_trace_eq rfl
  | rcreqReady ready => cases ht; exact growsBy_of_trace_eq rfl
  | rangeCoderRestarted => cases ht; exact growsBy_of_trace_eq rfl

theorem step_stopped_growsBy (ht : step s = .next t) : GrowsBy (¬ OnRangeCoder ·) s t := by
  unfold step nextMove at ht
  split at ht
  case h_1 => exact blockMove_stopped_growsBy h ht
  case h_2 e rest _ => exact applyInput_stopped_growsBy (s := { s with inputs := rest }) h ht

end

/-- Settles O55: the events of the step are on CMD or RSP, or a reset. -/
theorem stoppedRangeCoderTransfersNothing : Obligations.StoppedRangeCoderTransfersNothing := by
  intro s t h ht
  obtain ⟨es, hes, hoff⟩ := step_stopped_growsBy h ht
  exact ⟨es, hes, fun w hw => hoff _ hw (.inl ⟨w, rfl⟩), fun fm hfm => hoff _ hfm (.inr ⟨fm, rfl⟩)⟩

/-! ## One word with willing agents -/

/-- `t` is `s` after a command that willing agents have let come to its end: idle, the response taken and RSP empty, everything
transferred before it on RCREQ or RCRSP, no more than one answer used, and CMD, the schedule and the agents' readiness as they were. -/
structure Answered (s t : State) : Prop where
  mode : t.mode = .idle
  held : t.held = none
  rsp : t.rsp = []
  cmd : t.cmd = s.cmd
  inputs : t.inputs = s.inputs
  rcreqReady : t.rcreqReady = s.rcreqReady
  rspReady : t.rspReady = s.rspReady
  oracle : s.oracle.length ≤ t.oracle.length + 1
  trace : ∃ (es : List Event) (result : Word64), t.trace = s.trace ++ es ++ [.rspTaken result] ∧ ∀ e ∈ es, OnRangeCoder e

/-- A command that is over, its response taken last. -/
theorem answered_finished {s : State} {r : Regs} {es : List Event} {result : Word64} {oracle : List Word16} {rc : RangeCoder}
    (hnone : s.rsp = []) (hes : ∀ e ∈ es, OnRangeCoder e) (ho : s.oracle.length ≤ oracle.length + 1) :
    Answered s { finished s r (es ++ [.rspTaken result]) with oracle := oracle, rangeCoder := rc } :=
  ⟨rfl, rfl, hnone, rfl, rfl, rfl, rfl, ho, es, result, (List.append_assoc ..).symm, hes⟩

/-- Every command of a valid decay is answered, and none but a LAPENC of a negative value at decay 0 stops the range coder (R95,
R101). -/
theorem exec_answered {i : Instr} {s : State} (h : Willing s) (ho : s.oracle ≠ []) (hfits : i.WellFormed = true) (hd : i.decay < 16384) :
    ∃ t, exec i s = .next t ∧ Answered s t ∧ ((∀ v, i = .lapenc v 0 → 0 ≤ v) → ContractKept t) := by
  have hkept : ContractKept s := h.1.2
  have hnone : s.rsp = [] := h.2.2
  cases i with
  | startfreq d =>
    obtain ⟨r, result, hexec, -⟩ := startfreqAnswers d s hd h.2.1 hnone
    exact ⟨_, hexec, answered_finished (es := []) hnone (by simp) (Nat.le_succ _), fun _ => hkept⟩
  | lapenc v d =>
    simp only [Instr.WellFormed, Bool.and_eq_true, valueFits_iff] at hfits
    obtain ⟨⟨lo, hi⟩, -⟩ := hfits
    have hexec := exec_lapenc lo hi hd h
    refine ⟨_, hexec, answered_finished (es := [.rcreqTaken _]) hnone (by simp [OnRangeCoder]) (Nat.le_succ _), ?kept⟩
    intro hnonneg
    obtain ⟨t, ht, hbroken, -⟩ := contractBrokenOnlyAtDecayZero v d s lo hi hd h
    cases hexec.symm.trans ht
    by_contra hstopped
    obtain ⟨rfl, hneg⟩ := hbroken.mp hstopped
    exact absurd (hnonneg v rfl) (not_le.mpr hneg)
  | lapdec d =>
    obtain ⟨fm, rest, hfm⟩ := List.exists_cons_of_ne_nil ho
    exact ⟨_, exec_lapdec hd h hfm, answered_finished (es := [.rcreqTaken _, .rcrspTaken fm, .rcreqTaken _]) hnone
      (by simp [OnRangeCoder]) (by simp [hfm]), fun _ => hkept⟩

/-- The decay of the word, if it is a command, has a meaning (R55). -/
def DecayOfWordValid (w : Word64) : Prop := ∀ i, decode w = .ok i → i.decay < 16384

/-- The word is not the LAPENC of R101, on which the range coder stops (R95). -/
def KeepsContract (w : Word64) : Prop := ∀ v, decode w = .ok (.lapenc v 0) → 0 ≤ v

/-- Every word, legal or not, is answered; its own event comes before those of its command. -/
theorem runWord_answered {w : Word64} {s : State} (h : Willing s) (ho : s.oracle ≠ []) (hd : DecayOfWordValid w) :
    ∃ t, runWord w s = .next t ∧ Answered (takeCommand w s) t ∧ (KeepsContract w → ContractKept t) := by
  cases hw : decode w with
  | ok i =>
    obtain ⟨-, hoperands⟩ := (decode_ok_iff w i).mp hw
    obtain ⟨t, hexec, hanswered, hkept⟩ := exec_answered (s := takeCommand w s) h ho hoperands.wellFormed (hd i hw)
    refine ⟨t, by simp only [runWord, hw, hexec], hanswered, fun hnonneg => hkept ?_⟩
    rintro v rfl
    exact hnonneg v hw
  | error e =>
    have hnone : s.rsp = [] := h.2.2
    refine ⟨_, runWord_illegal ⟨e, hw⟩ s, ?answered, ?kept⟩ <;> rw [settle_respond (by exact h.2.1) (by exact hnone)]
    case answered => exact answered_finished (es := []) hnone (by simp) (Nat.le_succ _)
    case kept => exact fun _ => h.1.2

/-! ## What is counted in a trace -/

/-- The events of CMD in a trace, in order (R107). -/
def wordsTaken (trace : List Event) : List Event := trace.filter (fun e => match e with | .cmdTaken _ => true | _ => false)

/-- How many responses the host has taken in a trace (R107). -/
def responsesTaken (trace : List Event) : Nat := trace.countP (fun e => match e with | .rspTaken _ => true | _ => false)

/-- The transfers with the range coder are neither. -/
theorem taken_onRangeCoder {es : List Event} (h : ∀ e ∈ es, OnRangeCoder e) : wordsTaken es = [] ∧ responsesTaken es = 0 := by
  simp only [wordsTaken, responsesTaken, List.filter_eq_nil_iff, List.countP_eq_zero]
  refine ⟨fun e he => ?words, fun e he => ?responses⟩ <;> rcases h e he with ⟨w, rfl⟩ | ⟨fm, rfl⟩ <;> exact Bool.false_ne_true

/-- A word that is answered adds itself and one response. -/
theorem taken_of_answered {w : Word64} {s t : State} (h : Answered (takeCommand w s) t) :
    wordsTaken t.trace = wordsTaken s.trace ++ [.cmdTaken w] ∧ responsesTaken t.trace = responsesTaken s.trace + 1 := by
  obtain ⟨es, result, htrace, hes⟩ := h.trace
  obtain ⟨hwords, hresponses⟩ := taken_onRangeCoder hes
  simp only [wordsTaken, responsesTaken] at hwords hresponses ⊢
  simp [htrace, hwords, hresponses]

/-! ## A run over a list of words -/

/-- An idle block before the run over `words`, which stand on CMD with nothing scheduled (R106): both agents take what is offered, the
range coder goes on if there is a word to run, each word has an answer at hand and a valid decay, and no word but the last stops the
range coder. -/
structure ReadyFor (words : List Word64) (s : State) : Prop where
  mode : s.mode = .idle
  held : s.held = none
  rsp : s.rsp = []
  cmd : s.cmd = words
  inputs : s.inputs = []
  rcreqReady : s.rcreqReady = true
  rspReady : s.rspReady = true
  contract : words ≠ [] → ContractKept s
  oracle : words.length ≤ s.oracle.length
  valid : ∀ w ∈ words, DecayOfWordValid w
  keeps : ∀ w ∈ words.dropLast, KeepsContract w

/-- A run over no words is over. -/
theorem ReadyFor.runOver {s : State} (h : ReadyFor [] s) : RunOver s := ⟨h.mode, h.cmd, by rw [h.inputs]; rfl, h.rsp⟩

/-- One step runs the first word and leaves the block ready for the rest: a word with others behind it has not stopped the range
coder. -/
theorem ReadyFor.step_first {w : Word64} {rest : List Word64} {s : State} (h : ReadyFor (w :: rest) s) :
    ∃ t, step s = .next t ∧ ReadyFor rest t ∧
      wordsTaken t.trace = wordsTaken s.trace ++ [.cmdTaken w] ∧ responsesTaken t.trace = responsesTaken s.trace + 1 := by
  have hwilling : Willing s := ⟨⟨h.rcreqReady, h.contract (List.cons_ne_nil w rest)⟩, h.rspReady, h.rsp⟩
  have hlength : rest.length + 1 ≤ s.oracle.length := h.oracle
  have ho : s.oracle ≠ [] := List.ne_nil_of_length_pos (by omega)
  obtain ⟨t, hrun, hanswered, hkept⟩ := runWord_answered (s := { s with cmd := rest }) hwilling ho (h.valid w List.mem_cons_self)
  have hused : s.oracle.length ≤ t.oracle.length + 1 := hanswered.oracle
  have htaken := taken_of_answered hanswered
  have hlater (hrest : rest ≠ []) : (w :: rest).dropLast = w :: rest.dropLast := List.dropLast_cons_of_ne_nil hrest
  have hkeepsRest (x : Word64) (hx : x ∈ rest.dropLast) : x ∈ (w :: rest).dropLast := by
    rw [hlater (by rintro rfl; simp at hx)]
    exact List.mem_cons_of_mem w hx
  refine ⟨t, (step_takes_word h.mode h.inputs h.cmd).trans hrun, ?ready, htaken⟩
  exact {
    mode := hanswered.mode
    held := hanswered.held
    rsp := hanswered.rsp
    cmd := hanswered.cmd
    inputs := hanswered.inputs.trans h.inputs
    rcreqReady := hanswered.rcreqReady.trans h.rcreqReady
    rspReady := hanswered.rspReady.trans h.rspReady
    contract := fun hrest => hkept (h.keeps w (by simp [hlater hrest]))
    oracle := by omega
    valid := fun x hx => h.valid x (List.mem_cons_of_mem w hx)
    keeps := fun x hx => h.keeps x (hkeepsRest x hx) }

/-- As many steps as there are words end the run, each word taken in order and answered. -/
theorem ReadyFor.run {words : List Word64} {s : State} (h : ReadyFor words s) :
    ∃ t, Sys2Proof.core.run words.length s = .next t ∧ ReadyFor [] t ∧
      wordsTaken t.trace = wordsTaken s.trace ++ words.map .cmdTaken ∧
      responsesTaken t.trace = responsesTaken s.trace + words.length := by
  induction words generalizing s with
  | nil => exact ⟨s, rfl, h, by simp, rfl⟩
  | cons w rest ih =>
    obtain ⟨u, hstep, hready, hwords, hresponses⟩ := h.step_first
    obtain ⟨t, hrun, hend, hwords', hresponses'⟩ := ih hready
    refine ⟨t, (run_succ hstep rest.length).trans hrun, hend, ?words, ?responses⟩
    case words => simp [hwords', hwords]
    case responses => rw [hresponses', hresponses, List.length_cons]; omega

/-- The host's offering of its scheduled words, one step for each, puts them on CMD behind those already there (log 2). -/
theorem run_offers (later : List Word64) (k : Nat) {s : State} (h : s.inputs = later.map Input.command) :
    Sys2Proof.core.run (later.length + k) s = Sys2Proof.core.run k { s with inputs := [], cmd := s.cmd ++ later } := by
  induction later generalizing s with
  | nil =>
    rw [List.length_nil, Nat.zero_add, List.append_nil, ← show s.inputs = [] from h]
  | cons w later ih =>
    have hstep : step s = .next { s with inputs := later.map Input.command, cmd := s.cmd ++ [w] } := by
      simp [step, nextMove, applyInput, h]
    rw [List.length_cons, Nat.add_right_comm, run_succ hstep, ih rfl]
    simp

/-- Settles O43: the scheduled words are offered, and then each step runs one word. -/
theorem everyRunEnds : Obligations.EveryRunEnds := by
  intro s later hm hheld _ hi hwilling ho hd hkeeps
  obtain ⟨⟨hrcreq, hcontract⟩, hrspReady, hrsp⟩ := hwilling
  have hready : ReadyFor (s.cmd ++ later) { s with inputs := [], cmd := s.cmd ++ later } :=
    ⟨hm, hheld, hrsp, rfl, rfl, hrcreq, hrspReady, fun _ => hcontract, ho, hd, hkeeps⟩
  obtain ⟨t, hrun, hend, hwords, hresponses⟩ := hready.run
  exact ⟨t, (run_offers later _ hi).trans hrun, hend.runOver, hend.held, hwords, hresponses⟩

end Sys2Proof.Machine

/-! # A run that is over

Nothing is left to take, and no event but a word could bring more (R107). -/

namespace Sys2Proof.Machine

/-- An idle block with no word to take and no response to be taken does nothing (R97; log 13). -/
theorem RunOver.blockMove_eq {s : State} (h : RunOver s) : blockMove s = .next s := by
  obtain ⟨hmode, hcmd, -, hrsp⟩ := h
  simp only [blockMove, hmode, hcmd, hostTakes_prompt fun _ => hrsp]

/-- A word at the head of the schedule is still to come. -/
theorem wordsToCome_command_ne_nil (w : Word64) (rest : List Input) : wordsToCome (.command w :: rest) ≠ [] :=
  List.cons_ne_nil w (wordsToCome rest)

/-- Without its first event the schedule brings no word that it did not bring before. -/
theorem wordsToCome_tail_eq_nil {e : Input} {rest : List Input} (h : wordsToCome (e :: rest) = []) : wordsToCome rest = [] := by
  simp only [wordsToCome, List.filterMap_eq_nil_iff] at h ⊢
  exact fun e' he' => h e' (List.mem_cons_of_mem e he')

/-- Only a word can start a run that is over again. -/
theorem RunOver.applyInput_of_ne_command {s : State} (h : RunOver s) {e : Input} (he : ∀ w, e ≠ .command w) :
    ∃ t, applyInput e s = .next t ∧ RunOver t := by
  have ⟨_, _, hcome, hrsp⟩ := h
  cases e with
  | blockMoves => exact ⟨s, h.blockMove_eq, h⟩
  | rst => exact ⟨applyReset s, rfl, rfl, rfl, hcome, rfl⟩
  | command w => exact absurd rfl (he w)
  | answer fm => exact ⟨_, rfl, h⟩
  | rcreqReady ready => exact ⟨_, rfl, h⟩
  | rspReady ready =>
    have htakes : hostTakes { s with rspReady := ready } = { s with rspReady := ready } := hostTakes_prompt fun _ => hrsp
    exact ⟨_, congrArg Host.Outcome.next htakes, h⟩
  | takeResponse => exact ⟨s, congrArg Host.Outcome.next (takeOldest_nil hrsp), h⟩
  | rangeCoderRestarted => exact ⟨_, rfl, h⟩

/-- Settles O39: with nothing scheduled the idle block repeats its state, and a scheduled event is not a word. -/
theorem runOverStaysOver : Obligations.RunOverStaysOver := by
  intro s h
  rcases hi : s.inputs with _ | ⟨e, rest⟩
  case nil =>
    have hstep : step s = .next s := by simp only [step, nextMove, hi, h.blockMove_eq]
    exact ⟨s, hstep, h, fun _ => rfl⟩
  case cons =>
    obtain ⟨hmode, hcmd, hcome, hrsp⟩ := h
    rw [hi] at hcome
    have hnotWord (w : Word64) : e ≠ .command w := by
      rintro rfl
      exact wordsToCome_command_ne_nil w rest hcome
    have hover : RunOver { s with inputs := rest } := ⟨hmode, hcmd, wordsToCome_tail_eq_nil hcome, hrsp⟩
    obtain ⟨t, ht, htover⟩ := hover.applyInput_of_ne_command hnotWord
    refine ⟨t, ?_, htover, fun hnil => absurd hnil (List.cons_ne_nil e rest)⟩
    simpa only [step, nextMove, hi] using ht

end Sys2Proof.Machine
